-- ==== Sys2Proof/Word.lean ====
section
/-! DEFINITION. Word.lean: the widths of the datapath (spec/00_scope.md R6) and the two-valued signal level (R9). -/

namespace Sys2Proof

/-- One value of the Bus and of the 8-bit registers (R6 `BUS_BITS`, `REG_BITS`, `PC_BITS`, `MAR_BITS`). -/
abbrev Byte := BitVec 8

/-- One RAM cell (R6 `RAM_WORD_BITS`) or the storage of IR (`IR_BITS`). -/
abbrev Word := BitVec 16

/-- The operand and the opcode field of an instruction word (R58). -/
abbrev Nibble := BitVec 4

/-- A control word: bit `i` is the control signal at position `i` (R54, R55). -/
abbrev ControlWord := BitVec 16

/-- `LogicalState`: "enum {LOW, HIGH} ... No other values permitted" (R9, R14). -/
inductive Level where
  | low
  | high
  deriving DecidableEq, Repr

/-- `not(x)` flips a level (R9). -/
def Level.not : Level → Level
  | .low => .high
  | .high => .low

@[simp] theorem Level.not_low : Level.low.not = .high := rfl
@[simp] theorem Level.not_high : Level.high.not = .low := rfl

end Sys2Proof
end

