-- ==== Sys2Proof/Machine/ControlWord.lean ====
section
/-! DEFINITION. Machine/ControlWord.lean: the sixteen control signals, their bit positions, and what a control word alone
decides: who drives the Bus (spec/30_encoding.md R54, R55; spec/40_engine_cycle.md R70, R72). -/

namespace Sys2Proof.Machine

/-- The control signals, in the order of R54. -/
inductive Signal where
  | hlt | mi | ri | ro | io | ii | ai | ao | eo | su | bi | oi | ce | co | j | fi
  deriving DecidableEq, Repr

/-- The bit position of a signal: "HLT, MI, RI, RO, IO, II, AI, AO, EO, SU, BI, OI, CE, CO, J, FI (positions 0-15)" (R54). -/
def Signal.position : Signal → Nat
  | .hlt => 0
  | .mi => 1
  | .ri => 2
  | .ro => 3
  | .io => 4
  | .ii => 5
  | .ai => 6
  | .ao => 7
  | .eo => 8
  | .su => 9
  | .bi => 10
  | .oi => 11
  | .ce => 12
  | .co => 13
  | .j => 14
  | .fi => 15

/-- `sig(X)`: "bit i HIGH iff bit i of the integer is 1" (R8, R55). -/
def sig (cw : ControlWord) (x : Signal) : Bool := cw.getLsbD x.position

/-- The control word that asserts the listed signals and no other (R54). -/
def ofSignals (xs : List Signal) : ControlWord :=
  xs.foldr (fun x cw => cw ||| (1#16 <<< x.position)) 0

/-- The modules of the engine (R3, R70). -/
inductive Module where
  | pc | ir | acc | alu | ram | breg | flags | out | mar | controlUnit | clock
  deriving DecidableEq, Repr

/-- Every module, in the order of R70's table; the order has no effect on any result (R71, R74). -/
def Module.all : List Module :=
  [.pc, .ir, .acc, .alu, .ram, .breg, .flags, .out, .mar, .controlUnit, .clock]

/-- "will you write this tick?", a pure function of the control word (R70). -/
def willWrite (cw : ControlWord) : Module → Bool
  | .pc => sig cw .co
  | .ir => sig cw .io
  | .acc => sig cw .ao
  | .alu => sig cw .eo
  | .ram => sig cw .ro && !sig cw .ri
  | .breg | .flags | .out | .mar | .controlUnit | .clock => false

/-- The modules that drive the Bus under a control word (R64, R70). -/
def drivers (cw : ControlWord) : List Module := Module.all.filter (willWrite cw)

/-- Two or more drivers: the word cannot be executed (R72). -/
def contends (cw : ControlWord) : Bool := decide (2 ≤ (drivers cw).length)

/-- The word makes the RAM access of its tick: RI stores, else RO reads (R89, R90). -/
def accessesRam (cw : ControlWord) : Bool := sig cw .ri || sig cw .ro

/-- The word asserts a signal that reads the Bus (R31, R114). -/
def readsBus (cw : ControlWord) : Bool :=
  sig cw .mi || sig cw .ri || sig cw .ii || sig cw .ai || sig cw .bi || sig cw .oi || sig cw .j

end Sys2Proof.Machine
end

