-- ==== Sys2Proof/Machine/Flags.lean ====
section
/-! DEFINITION. Machine/Flags.lean: the ALU and its flags (spec/41_control_signals.md R102 to R104). CF after a subtraction
means no borrow (decision D4, spec/90_conflicts.md C1); ZF is FLAGS bit 1 and CF bit 0 (decision D3, C12). -/

namespace Sys2Proof.Machine

/-- What the ALU computes: result, zero flag, carry flag (R103). -/
structure AluOut where
  res : Byte
  z : Bool
  c : Bool
  deriving DecidableEq, Repr

/-- The 9-bit sum: `a + b`, or `a + ((~b) mod 256) + 1` for a subtraction (R103). -/
def aluRaw (a b : Byte) (subtract : Bool) : BitVec 9 :=
  if subtract then a.setWidth 9 + (~~~b).setWidth 9 + 1 else a.setWidth 9 + b.setWidth 9

/-- `aluCompute(a, b, subtract)`: the low 8 bits of the sum, whether they are 0, and the carry out of bit 7 (R103). -/
def aluCompute (a b : Byte) (subtract : Bool) : AluOut :=
  let raw := aluRaw a b subtract
  let res := raw.setWidth 8
  { res := res, z := decide (res = 0), c := raw.getLsbD 8 }

/-- `(z << 1) | c`, the value FI loads into FLAGS (R102). -/
def packFlags (z c : Bool) : BitVec 2 := BitVec.ofBool z ++ BitVec.ofBool c

/-- ZF, `FLAGS[1]` (R20). -/
def zeroFlag (f : BitVec 2) : Bool := f.getLsbD 1

/-- CF, `FLAGS[0]` (R20). -/
def carryFlag (f : BitVec 2) : Bool := f.getLsbD 0

end Sys2Proof.Machine
end

