-- ==== Sys2Proof/Config.lean ====
section
/-! DEFINITION. Config.lean: the parameters of spec/00_scope.md R6 that `State.reset` takes a value for. Every one of
them is also a value that other states of the model carry (RAM size, frequency, HLT opcode, ROM contents), so no rule of the machine
reads a constant of this file. The spec leaves no instruction's value undefined: there is no free value. -/

namespace Sys2Proof

/-- `RAM_SIZE` of the reference configuration (R6, R35: "N=512 in the reference configuration"). -/
def Config.ramSize : Nat := 512

/-- `ROM_SIZE`: 512 control words, in two banks of 512 bytes (R6, R39). -/
def Config.romSize : Nat := 512

/-- The values that the parameter `HLT_OPCODE` can take: "one value in 10 to 15" (R6). -/
inductive HltOpcode where
  | ten | eleven | twelve | thirteen | fourteen | fifteen
  deriving DecidableEq, Repr

/-- The opcode that a value of `HLT_OPCODE` is. -/
def HltOpcode.value : HltOpcode → Nibble
  | .ten => 10
  | .eleven => 11
  | .twelve => 12
  | .thirteen => 13
  | .fourteen => 14
  | .fifteen => 15

/-- `HLT_OPCODE` of the reference configuration: "default 15" (R6, decision D2; log 3). -/
def Config.hltOpcode : HltOpcode := .fifteen

/-- `FREQUENCY`: the spec asks for a positive number and gives no value. DESIGN CHOICE: 1 tick per second (log 5, unsafe). -/
def Config.initialFrequency : Rat := 1

end Sys2Proof
end

