-- ==== Sys2Proof/Syntax.lean ====
section
/-! DEFINITION. Syntax.lean: the instructions, one constructor per row of spec/opcode_table.json (spec/30_encoding.md R60).
The operand is the 4-bit field of bits 3:0 (R58). NOP, OUT, HLT and the unassigned opcodes ignore it, but the fetch still
loads it into IR and puts it on the Bus (spec/43_instructions.md R116), so those constructors carry it too. The opcodes in the
comments are those of the default `HLT_OPCODE = 15`; Decode.lean gives the others (R129, R130; log 3). -/

namespace Sys2Proof

/-- An instruction word of the 4-bit-opcode instruction set (R58, R60). -/
inductive Instr where
  | nop (x : Nibble)            -- 0000 xxxx, R119
  | lda (n : Nibble)            -- 0001 nnnn, R120
  | add (n : Nibble)            -- 0010 nnnn, R121
  | sub (n : Nibble)            -- 0011 nnnn, R122
  | sta (n : Nibble)            -- 0100 nnnn, R123
  | ldi (n : Nibble)            -- 0101 nnnn, R124
  | jmp (n : Nibble)            -- 0110 nnnn, R125
  | jc (n : Nibble)             -- 0111 nnnn, R126
  | jz (n : Nibble)             -- 1000 nnnn, R127
  | out (x : Nibble)            -- 1001 xxxx, R128
  | unassigned10 (x : Nibble)   -- 1010 xxxx, R130
  | unassigned11 (x : Nibble)   -- 1011 xxxx, R130
  | unassigned12 (x : Nibble)   -- 1100 xxxx, R130
  | unassigned13 (x : Nibble)   -- 1101 xxxx, R130
  | unassigned14 (x : Nibble)   -- 1110 xxxx, R130
  | hlt (x : Nibble)            -- 1111 xxxx, R129
  deriving DecidableEq, Repr

/-- The mnemonics that assembler text may use (R63). -/
inductive Mnemonic where
  | nop | lda | add | sub | sta | ldi | jmp | jc | jz | out | hlt
  deriving DecidableEq, Repr

/-- An instruction as assembler text gives it: a mnemonic and perhaps a decimal number (R63). -/
structure SourceForm where
  mnemonic : Mnemonic
  operand  : Option Nat
  deriving DecidableEq, Repr

end Sys2Proof
end

