-- ==== Sys2Proof/WellFormed.lean ====
section
/-! DEFINITION. WellFormed.lean: which instructions exist. A decoded instruction carries a 4-bit operand, so every `Instr`
is well formed by its type, as spec/43_instructions.md R117 says ("every 8-bit instruction word runs"). The one check the
spec makes is on the assembler's form of an instruction (spec/30_encoding.md R63, decision D31): an operand above 15 "is
refused", NOP, OUT and HLT take none, the others take one. -/

namespace Sys2Proof

/-- Whether the mnemonic is written with an operand (R63). -/
def Mnemonic.takesOperand : Mnemonic → Bool
  | .nop | .out | .hlt => false
  | .lda | .add | .sub | .sta | .ldi | .jmp | .jc | .jz => true

/-- The forms R63 accepts: `MNEMONIC` for NOP, OUT and HLT; `MNEMONIC n` with `n` 0 to 15 for the others. -/
def SourceForm.wellFormed (f : SourceForm) : Bool :=
  match f.mnemonic.takesOperand, f.operand with
  | false, none => true
  | true, some n => decide (n ≤ 15)
  | false, some _ => false
  | true, none => false

end Sys2Proof
end

