-- ==== Sys2Proof/Decode.lean ====
section
/-! DEFINITION. Decode.lean: reading and writing instruction words (spec/30_encoding.md R58 to R63). Decoding is total and
refuses nothing: "none can be refused at decode: every 8-bit instruction word runs" (spec/43_instructions.md R117, R61). -/

namespace Sys2Proof

/-- Bits 7:4 of an instruction word (R58). -/
def opcodeField (w : Byte) : Nibble := w.extractLsb' 4 4

/-- Bits 3:0 of an instruction word (R58). -/
def operandField (w : Byte) : Nibble := w.extractLsb' 0 4

/-- The opcode `o` of the unassigned row `k`, for the HLT opcode `h`: "every opcode from 10 to 15 other than `HLT_OPCODE`" is
unassigned (spec/43_instructions.md R130). Row `k` has opcode `k`; the row whose opcode is taken by HLT has opcode 15 (log 3). -/
def unassignedOpcode (h : HltOpcode) (k : Nibble) : Nibble := if h.value = k then 15 else k

/-- The opcode map (R60) for the HLT opcode `h` (R129, R130, decision D2). -/
def decode (h : HltOpcode) (w : Byte) : Instr :=
  let o := opcodeField w
  let n := operandField w
  if o = h.value then .hlt n
  else if o = unassignedOpcode h 10 then .unassigned10 n
  else if o = unassignedOpcode h 11 then .unassigned11 n
  else if o = unassignedOpcode h 12 then .unassigned12 n
  else if o = unassignedOpcode h 13 then .unassigned13 n
  else if o = unassignedOpcode h 14 then .unassigned14 n
  else
    match o.toNat with
    | 0 => .nop n
    | 1 => .lda n
    | 2 => .add n
    | 3 => .sub n
    | 4 => .sta n
    | 5 => .ldi n
    | 6 => .jmp n
    | 7 => .jc n
    | 8 => .jz n
    | _ => .out n

/-- The instruction in a RAM cell: bits 15:8 "never reach IR" (R58), so the low byte is decoded. -/
def decodeCell (h : HltOpcode) (c : Word) : Instr := decode h (c.setWidth 8)

/-- The opcode number of an instruction, for the HLT opcode `h` (R60, R129, R130). -/
def Instr.opcode (h : HltOpcode) : Instr → Nibble
  | .nop _ => 0
  | .lda _ => 1
  | .add _ => 2
  | .sub _ => 3
  | .sta _ => 4
  | .ldi _ => 5
  | .jmp _ => 6
  | .jc _ => 7
  | .jz _ => 8
  | .out _ => 9
  | .unassigned10 _ => unassignedOpcode h 10
  | .unassigned11 _ => unassignedOpcode h 11
  | .unassigned12 _ => unassignedOpcode h 12
  | .unassigned13 _ => unassignedOpcode h 13
  | .unassigned14 _ => unassignedOpcode h 14
  | .hlt _ => h.value

/-- The operand bits of an instruction (R58). -/
def Instr.operand : Instr → Nibble
  | .nop n | .lda n | .add n | .sub n | .sta n | .ldi n | .jmp n | .jc n | .jz n | .out n
  | .unassigned10 n | .unassigned11 n | .unassigned12 n | .unassigned13 n | .unassigned14 n | .hlt n => n

/-- A word is `(opcode << 4) | operand` (R58, R63). -/
def encode (h : HltOpcode) (i : Instr) : Byte := i.opcode h ++ i.operand

/-- The RAM cell that holds an instruction: the word in bits 7:0, zero above (R63). -/
def encodeCell (h : HltOpcode) (i : Instr) : Word := (encode h i).setWidth 16

/-- The instruction a mnemonic and an operand stand for; NOP, OUT and HLT encode operand 0 (R63). -/
def Mnemonic.toInstr : Mnemonic → Nibble → Instr
  | .nop, _ => .nop 0
  | .lda, n => .lda n
  | .add, n => .add n
  | .sub, n => .sub n
  | .sta, n => .sta n
  | .ldi, n => .ldi n
  | .jmp, n => .jmp n
  | .jc, n => .jc n
  | .jz, n => .jz n
  | .out, _ => .out 0
  | .hlt, _ => .hlt 0

/-- Assembling one instruction: refused when the form is not one of R63's (decision D31). -/
def assemble (h : HltOpcode) (f : SourceForm) : Option Word :=
  if f.wellFormed then some (encodeCell h (f.mnemonic.toInstr (BitVec.ofNat 4 (f.operand.getD 0)))) else none

/-- What the decoder reads from an instruction of `nbits` bits with value `w` (bit 0 least significant): the RAM cell that
holds those bits, decoded with the HLT opcode of the table (the default). Nothing is refused (R117). -/
def decodeTableWord (nbits w : Nat) : Option Instr :=
  some (decodeCell Config.hltOpcode (BitVec.ofNat 16 (w % 2 ^ nbits)))

end Sys2Proof
end

