-- ==== Sys2Proof/Machine/Memory.lean ====
section
/-! DEFINITION. Machine/Memory.lean: an array of cells as plain data, for RAM (16-bit cells, spec/20_memory.md R35) and for
the two ROM banks (8-bit cells, R39). A memory is a list of (address, value) pairs in one canonical form: addresses strictly
rising, below the array's length, and no entry equal to 0, which is what an unlisted address reads as (reset RAM is "all
zero", R32; a ROM address without a firmware line is 0, R42). -/

namespace Sys2Proof.Machine

/-- A memory of `w`-bit cells; a bank of bytes is a list of the host's cells. -/
abbrev Mem (w : Nat) := List (Nat × BitVec w)

/-- The cell at `a`; an unlisted address reads 0 (R32, R42). -/
def Mem.read {w : Nat} : Mem w → Nat → BitVec w
  | [], _ => 0
  | (b, u) :: m, a => if b = a then u else Mem.read m a

/-- The memory with the cell at `a` back at 0. -/
def Mem.clear {w : Nat} : Mem w → Nat → Mem w
  | [], _ => []
  | (b, u) :: m, a => if b = a then Mem.clear m a else (b, u) :: Mem.clear m a

/-- Lists the pair (a, v) before the first address above `a`. -/
def Mem.insert {w : Nat} : Mem w → Nat → BitVec w → Mem w
  | [], a, v => [(a, v)]
  | (b, u) :: m, a, v => if a < b then (a, v) :: (b, u) :: m else (b, u) :: Mem.insert m a v

/-- `RAM[a] <- v`: the cell at `a` holds `v` and no other cell changes (R37). -/
def Mem.write {w : Nat} (m : Mem w) (a : Nat) (v : BitVec w) : Mem w :=
  if v = 0 then Mem.clear m a else Mem.insert (Mem.clear m a) a v

/-- Copies `vs` to the cells from address `a` upward (R44). -/
def Mem.writeAll {w : Nat} (m : Mem w) (a : Nat) : List (BitVec w) → Mem w
  | [] => m
  | v :: vs => Mem.writeAll (Mem.write m a v) (a + 1) vs

/-- The `n` cells from address `a` upward, with the values `f` gives them. -/
def Mem.tabulate {w : Nat} (f : Nat → BitVec w) : Nat → Nat → Mem w
  | _, 0 => []
  | a, n + 1 => if f a = 0 then Mem.tabulate f (a + 1) n else (a, f a) :: Mem.tabulate f (a + 1) n

/-- The largest address below `n` whose cell is not 0 (R34). -/
def Mem.highestNonZero {w : Nat} (m : Mem w) : Nat → Option Nat
  | 0 => none
  | n + 1 => if Mem.read m n ≠ 0 then some n else Mem.highestNonZero m n

/-- The canonical form, from address `lo` upward, for an array of length `size`. -/
def Mem.wfFrom {w : Nat} (size : Nat) : Nat → Mem w → Bool
  | _, [] => true
  | lo, (a, v) :: m => decide (lo ≤ a ∧ a < size ∧ v ≠ 0) && Mem.wfFrom size (a + 1) m

/-- The canonical form of an array of length `size`. -/
def Mem.wf {w : Nat} (size : Nat) (m : Mem w) : Bool := Mem.wfFrom size 0 m

end Sys2Proof.Machine
end

