-- ==== Sys2Proof/Machine/Firmware.lean ====
section
/-! DEFINITION. Machine/Firmware.lean: ROM address assembly (spec/30_encoding.md R56), the reference microprogram
(spec/42_reference_firmware.md R106 to R115, decision D1) and the firmware text resource (spec/20_memory.md R42,
spec/30_encoding.md R62). -/

namespace Sys2Proof.Machine

/-- `addr[8:0] = FLAGS[1:0] ++ IR[7:4] ++ T[2:0]` (R56). -/
def romAddress (flags : BitVec 2) (op : Nibble) (t : BitVec 3) : BitVec 9 := flags ++ op ++ t

/-- The words of steps T2, T3 and T4 of a row, for the HLT opcode `h` (R108, R109). -/
def executeWords (h : Nibble) (zf cf : Bool) (op : Nibble) : ControlWord × ControlWord × ControlWord :=
  if op = 1 then (0x0012, 0x0048, 0)                       -- LDA: MI|IO, RO|AI
  else if op = 2 then (0x0012, 0x0408, 0x8140)             -- ADD: MI|IO, RO|BI, EO|AI|FI
  else if op = 3 then (0x0012, 0x0408, 0x8340)             -- SUB: MI|IO, RO|BI, EO|AI|SU|FI
  else if op = 4 then (0x0012, 0x0084, 0)                  -- STA: MI|IO, AO|RI
  else if op = 5 then (0x0050, 0, 0)                       -- LDI: IO|AI
  else if op = 6 then (0x4010, 0, 0)                       -- JMP: IO|J
  else if op = 7 then (if cf then 0x4010 else 0, 0, 0)     -- JC: IO|J if CF
  else if op = 8 then (if zf then 0x4010 else 0, 0, 0)     -- JZ: IO|J if ZF
  else if op = 9 then (0x0880, 0, 0)                       -- OUT: AO|OI
  else if op = h then (0x0001, 0, 0)                       -- HLT
  else (0, 0, 0)                                           -- NOP and the unassigned opcodes

/-- The word at step `t` of a row: the fetch words MI|CO and RO|II|CE at steps 0 and 1 (R107), the row's own words at
steps 2 to 4 (R108), zero elsewhere (R110). -/
def referenceWord (h : Nibble) (zf cf : Bool) (op : Nibble) (t : BitVec 3) : ControlWord :=
  if t = 0 then 0x2002
  else if t = 1 then 0x1028
  else if t = 2 then (executeWords h zf cf op).1
  else if t = 3 then (executeWords h zf cf op).2.1
  else if t = 4 then (executeWords h zf cf op).2.2
  else 0

/-- `REF_IMAGE(addr)` for the HLT opcode `h` (R112). -/
def referenceImage (h : Nibble) (a : BitVec 9) : ControlWord :=
  referenceWord h (a.getLsbD 8) (a.getLsbD 7) (a.extractLsb' 3 4) (a.extractLsb' 0 3)

/-- Bits 7:0 of a control word, kept in bank A (R39, R45). -/
def lowByte (v : Word) : Byte := v.extractLsb' 0 8

/-- Bits 15:8 of a control word, kept in bank B (R39, R45). -/
def highByte (v : Word) : Byte := v.extractLsb' 8 8

/-- Bank A of an image (R43). -/
def bankA (image : Nat → ControlWord) : Mem 8 := Mem.tabulate (fun a => lowByte (image a)) 0 Config.romSize

/-- Bank B of an image (R43). -/
def bankB (image : Nat → ControlWord) : Mem 8 := Mem.tabulate (fun a => highByte (image a)) 0 Config.romSize

/-- The reference image over address numbers, for the HLT opcode `h` (R112, decisions D1 and D2). -/
def referenceRom (h : HltOpcode) (a : Nat) : ControlWord := referenceImage h.value (BitVec.ofNat 9 a)

/-- Bank A of the reference firmware (R113). -/
def referenceBankA (h : HltOpcode) : Mem 8 := bankA (referenceRom h)

/-- Bank B of the reference firmware (R113). -/
def referenceBankB (h : HltOpcode) : Mem 8 := bankB (referenceRom h)

/-- `RomRead(a) = ROM_B[a] ++ ROM_A[a]` (R40). -/
def romRead (romA romB : Mem 8) (a : BitVec 9) : ControlWord := romB.read a.toNat ++ romA.read a.toNat

/-- A line of the firmware resource. -/
abbrev Line := List Char

/-- The number a list of '0' and '1' spells, first character most significant, after the value `acc`; none at any other
character (R62). -/
def parseBits (acc : Nat) : Line → Option Nat
  | [] => some acc
  | c :: cs => if c = '0' then parseBits (2 * acc) cs else if c = '1' then parseBits (2 * acc + 1) cs else none

/-- A data line: exactly 16 characters of '0' and '1', first character bit 15 (R62). -/
def parseLine (l : Line) : Option ControlWord :=
  if l.length = 16 then (parseBits 0 l).map (BitVec.ofNat 16) else none

/-- Lines that carry no control word: empty, or starting with '#' (R42, R62). -/
def skipsLine : Line → Bool
  | [] => true
  | c :: _ => decide (c = '#')

/-- The control words of the data lines, in order; none when a data line is malformed (R42). -/
def parseLines : List Line → Option (List ControlWord)
  | [] => some []
  | l :: ls =>
    if skipsLine l then parseLines ls
    else
      match parseLine l, parseLines ls with
      | some v, some vs => some (v :: vs)
      | _, _ => none

/-- The firmware load of R42: the two banks, or none where the rule raises `Fault(FatalStartup)`: the resource is missing,
a data line is malformed, or there are more than 512 data lines (decision D19). Addresses without a line hold 0 (D18). -/
def loadFirmware (resource : Option (List Line)) : Option (Mem 8 × Mem 8) :=
  match resource with
  | none => none
  | some ls =>
    match parseLines ls with
    | none => none
    | some vs =>
      if vs.length ≤ Config.romSize then some (bankA (fun a => vs.getD a 0), bankB (fun a => vs.getD a 0)) else none

/-- The characters of bits `n - 1` down to 0 of a word. -/
def formatBits (v : ControlWord) : Nat → Line
  | 0 => []
  | n + 1 => (if v.getLsbD n then '1' else '0') :: formatBits v n

/-- A control word as a firmware data line, bit 15 first (R62, R113). -/
def formatLine (v : ControlWord) : Line := formatBits v 16

end Sys2Proof.Machine
end

