-- ==== Sys2Proof/Machine/State.lean ====
section
/-! DEFINITION. Machine/State.lean: the state of the engine, component by component as spec/10_state.md R13 lists it, and the
ways a step can stop. -/

namespace Sys2Proof.Machine

/-- The fault kinds (spec/60_exceptions.md R132). -/
inductive FaultKind where
  /-- The firmware resource is missing, unreadable, malformed or too long; no engine state records it, since construction fails. -/
  | fatalStartup
  /-- A RAM access at or above RAM_SIZE, or a program longer than RAM. -/
  | outOfRange
  /-- Two or more modules would drive the Bus on a HIGH tick. -/
  | busContention
  deriving DecidableEq, Repr

/-- Which argument the host gives `tick` (spec/40_engine_cycle.md R82, R83). The model's own, not part of R13 (log 6). -/
inductive Drive where
  /-- Continuous-run mode: `tick(false)`. -/
  | continuous
  /-- Single-step mode: `tick(true)`. -/
  | singleStep
  deriving DecidableEq, Repr

/-- Why the machine makes no further step. -/
inductive Fault where
  /-- Raised by `step` and by every meaning in a state whose FAULT is set: "the engine runs no further tick" (R30, R133).
  Safe: the hardware stays in that state for ever (log 9). -/
  | engineFaulted (kind : FaultKind)
  /-- Raised by `construct` when the firmware load fails: `Fault(FatalStartup)`, no engine state exists (R42, R132). Safe. -/
  | startupFailed
  deriving DecidableEq, Repr

/-- Why an operation is turned away with no change of state. -/
inductive Refusal where
  /-- For an instruction without a meaning, in exec's own arm; no arm of this model uses it. Safe. -/
  | notModelled (mnemonic : String)
  /-- Raised by `setFrequency` and `construct` for a frequency that is not positive: "rejected at the control boundary" (R79). Safe. -/
  | frequencyNotPositive
  /-- Raised by `loadProgram` for a word outside 0 to 65535 (R44, decision D20). Safe. -/
  | wordOutOfRange
  deriving DecidableEq, Repr

/-- The tuple of R13, with the parameters RAM_SIZE (log 4) and HLT_OPCODE (log 3) and the host's choice of tick mode (log 6). -/
@[ext]
structure State where
  /-- The Clock's phase (R26). -/
  phase : Level
  /-- The halt-request (R27). -/
  halt : Level
  /-- Ticks per second, positive (R28). -/
  freq : Rat
  /-- The step index T (R24). -/
  t : BitVec 3
  /-- The current control word CW (R25). -/
  cw : ControlWord
  /-- The Bus (R15). -/
  bus : Byte
  /-- The ProgramCounter (R16). -/
  pc : Byte
  /-- The InstructionRegister (R17). -/
  ir : Word
  /-- The Accumulator (R18). -/
  a : Byte
  /-- The BRegister (R19). -/
  b : Byte
  /-- The FlagsRegister: bit 1 is ZF, bit 0 is CF (R20). -/
  flags : BitVec 2
  /-- The OutputRegister (R21). -/
  out : Byte
  /-- The MemoryAddressRegister (R22). -/
  mar : Byte
  /-- The ALU's last result (R23). -/
  aluRes : Byte
  /-- The zero flag of the ALU's last computation (R23). -/
  aluZ : Bool
  /-- The carry flag of the ALU's last computation (R23). -/
  aluC : Bool
  /-- The RAM cells (R29, R35). -/
  ram : Mem 16
  /-- RAM_SIZE, the number of RAM cells (R6, R35). -/
  ramSize : Nat
  /-- HLT_OPCODE, the opcode of HLT (R6, R60). -/
  hltOpcode : HltOpcode
  /-- ROM bank A, bits 7:0 of the control words (R29, R39). -/
  romA : Mem 8
  /-- ROM bank B, bits 15:8 of the control words (R29, R39). -/
  romB : Mem 8
  /-- FAULT: none or the kind of the fault that stopped the engine (R30). -/
  fault : Option FaultKind
  /-- The model's own: how the host calls `tick` (log 6). -/
  drive : Drive
  deriving DecidableEq, Repr

/-- A fresh engine: the reset values of R32, with FAULT none (spec/70_reset_and_hazards.md R148, decision D27). -/
def State.fresh (hltOpcode : HltOpcode) (ramSize : Nat) (freq : Rat) (romA romB : Mem 8) : State where
  phase := .low
  halt := .high
  freq := freq
  t := 0
  cw := 0
  bus := 0
  pc := 0
  ir := 0
  a := 0
  b := 0
  flags := 0
  out := 0
  mar := 0
  aluRes := 0
  aluZ := false
  aluC := false
  ram := []
  ramSize := ramSize
  hltOpcode := hltOpcode
  romA := romA
  romB := romB
  fault := none
  drive := .continuous

/-- The machine right after construction and reset in the reference configuration: R32, R148, with the reference firmware in
the ROM (decision D1, log 2), 512 RAM cells, and HALT HIGH, so that continuous mode waits for the host (R149, log 7). -/
def State.reset : State :=
  State.fresh Config.hltOpcode Config.ramSize Config.initialFrequency (referenceBankA Config.hltOpcode)
    (referenceBankB Config.hltOpcode)

end Sys2Proof.Machine
end

