-- ==== Sys2Proof/Machine/Operands.lean ====
section
/-! DEFINITION. Machine/Operands.lean: the operand forms. An instruction's operand reaches the datapath only as
`zext_8(IR[3:0])` under IO (spec/30_encoding.md R59); it serves as RAM address, immediate value and jump target. The opcode
field selects the ROM row (R56). -/

namespace Sys2Proof.Machine

/-- `zext_8(n)`: the operand on the Bus, a value 0 to 15, never sign-extended (R59). -/
def operandByte (n : Nibble) : Byte := n.setWidth 8

/-- `IR[3:0]`, the only part of IR that drives the Bus (R17, R91). -/
def irOperand (ir : Word) : Nibble := ir.extractLsb' 0 4

/-- `IR[7:4]`, the opcode that ROM address assembly reads (R17, R56). -/
def irOpcode (ir : Word) : Nibble := ir.extractLsb' 4 4

/-- The ROM address the ControlUnit assembles in a state (R56, R67). -/
def State.romAddress (s : State) : BitVec 9 := Machine.romAddress s.flags (irOpcode s.ir) s.t

/-- The control word the ControlUnit fetches in a state (R67). -/
def State.fetchedWord (s : State) : ControlWord := romRead s.romA s.romB s.romAddress

end Sys2Proof.Machine
end

