-- ==== Sys2Proof/Machine/Ops.lean ====
section
/-! DEFINITION. Machine/Ops.lean: the named operations on memory and registers that the tick rules and the instruction
meanings share. Raising a fault is the hardware's only exception; nothing returns from it (spec/60_exceptions.md R133,
R138), so no return operation stands beside it. -/

namespace Sys2Proof.Machine

/-- The RAM cell at `a` (spec/20_memory.md R37); the caller checks the range (R38). -/
def State.ramAt (s : State) (a : Nat) : Word := s.ram.read a

/-- Whether `a` is the address of a RAM cell (R35, R38). -/
abbrev State.InRam (s : State) (a : Nat) : Prop := a < s.ramSize

/-- `MemWrite(a, 1, v)`: the cell at `a` becomes `v`. An address outside RAM has no cell to change (R37, R38). -/
def State.writeCell (s : State) (a : Nat) (v : Word) : State :=
  if s.InRam a then { s with ram := s.ram.write a v } else s

/-- `raise Fault(kind)`: FAULT records the kind and nothing else changes; the caller has made the changes that stay (R133). -/
def State.raiseFault (s : State) (kind : FaultKind) : State := { s with fault := some kind }

/-- `MAR <- v`. -/
def State.setMar (s : State) (v : Byte) : State := { s with mar := v }

/-- `BUS <- v`. -/
def State.setBus (s : State) (v : Byte) : State := { s with bus := v }

/-- `A <- v`. -/
def State.setA (s : State) (v : Byte) : State := { s with a := v }

/-- `B <- v`. -/
def State.setB (s : State) (v : Byte) : State := { s with b := v }

/-- `OUT <- v`. -/
def State.setOut (s : State) (v : Byte) : State := { s with out := v }

/-- `PC <- v`. -/
def State.setPc (s : State) (v : Byte) : State := { s with pc := v }

/-- `HALT <- v`. -/
def State.setHalt (s : State) (v : Level) : State := { s with halt := v }

/-- `ALU_RES <- res; ALU_Z <- z; ALU_C <- c` (spec/41_control_signals.md R95). -/
def State.setAlu (s : State) (r : AluOut) : State := { s with aluRes := r.res, aluZ := r.z, aluC := r.c }

/-- `FLAGS <- (z << 1) | c` (R102). -/
def State.setFlags (s : State) (z c : Bool) : State := { s with flags := packFlags z c }

/-- Where the Clock and the ControlUnit stand after a tick: phase, step index and fetched word. -/
def State.setTiming (s : State) (phase : Level) (t : BitVec 3) (cw : ControlWord) : State :=
  { s with phase := phase, t := t, cw := cw }

/-- A continuous run stands still: every `tick(false)` is a no-op (spec/40_engine_cycle.md R65, R85). -/
abbrev State.Frozen (s : State) : Prop := s.drive = .continuous ∧ s.halt = .high

/-- An instruction cycle starts here: `PHASE = LOW` and `T = 0` (spec/43_instructions.md R116). -/
abbrev State.AtCycleStart (s : State) : Prop := s.phase = .low ∧ s.t = 0

/-- The ROM holds the reference firmware of the machine's HLT opcode (spec/42_reference_firmware.md R112, R113). -/
abbrev State.HasReferenceFirmware (s : State) : Prop :=
  s.romA = referenceBankA s.hltOpcode ∧ s.romB = referenceBankB s.hltOpcode

end Sys2Proof.Machine
end

