-- ==== Sys2Proof/Machine/Signals.lean ====
section
/-! DEFINITION. Machine/Signals.lean: the executing pass of a HIGH tick, one definition per control signal's effect
(spec/41_control_signals.md R87 to R105). Every right-hand side reads the state as the tick found it, `old(X)`, and the
resolved Bus; all writes land together (spec/40_engine_cycle.md R74). The control word is `s.cw`, fetched by the latch pass
of the same tick. -/

namespace Sys2Proof.Machine

/-- What the ALU computes under EO from `old(A)`, `old(B)` and SU (R95, R96). -/
def aluOf (s : State) : AluOut := aluCompute s.a s.b (sig s.cw .su)

/-- The value a module puts on the Bus when it drives it: PC (R100), IR's operand (R91), A (R94), the ALU result (R95), the
low byte of the cell at `old(MAR)` (R90, decision D7). The other modules never drive (R70). -/
def driveValue (s : State) : Module → Byte
  | .pc => s.pc
  | .ir => operandByte (irOperand s.ir)
  | .acc => s.a
  | .alu => (aluOf s).res
  | .ram => lowByte (s.ramAt s.mar.toNat)
  | .breg | .flags | .out | .mar | .controlUnit | .clock => s.bus

/-- The resolved Bus: the one driver's value, or the value the Bus kept (R73, decision D14). -/
def resolvedBus (s : State) : Byte :=
  match drivers s.cw with
  | [m] => driveValue s m
  | _ => s.bus

/-- J without CO loads PC (R101), then CE increments it, 255 to 0 (R99, decisions D8, D16). -/
def nextPc (s : State) : Byte :=
  let loaded := if sig s.cw .j && !sig s.cw .co then resolvedBus s else s.pc
  if sig s.cw .ce then loaded + 1 else loaded

/-- II without IO loads IR with `zext_16(BUS)` (R92, decision D9). -/
def nextIr (s : State) : Word :=
  if sig s.cw .ii && !sig s.cw .io then (resolvedBus s).setWidth 16 else s.ir

/-- AI without AO loads A (R93). -/
def nextA (s : State) : Byte := if sig s.cw .ai && !sig s.cw .ao then resolvedBus s else s.a

/-- BI loads B (R97). -/
def nextB (s : State) : Byte := if sig s.cw .bi then resolvedBus s else s.b

/-- OI loads OUT (R98). -/
def nextOut (s : State) : Byte := if sig s.cw .oi then resolvedBus s else s.out

/-- MI loads MAR (R88). -/
def nextMar (s : State) : Byte := if sig s.cw .mi then resolvedBus s else s.mar

/-- FI loads FLAGS: with EO, the flags computed in this tick; without, the ALU's stored flags (R102). -/
def nextFlags (s : State) : BitVec 2 :=
  if sig s.cw .fi then
    if sig s.cw .eo then packFlags (aluOf s).z (aluOf s).c else packFlags s.aluZ s.aluC
  else s.flags

/-- The ALU's stored result and flags change under EO only (R95, spec/90_conflicts.md C11). -/
def nextAlu (s : State) : AluOut :=
  if sig s.cw .eo then aluOf s else { res := s.aluRes, z := s.aluZ, c := s.aluC }

/-- RI stores `zext_16(BUS)` at `old(MAR)` (R89). -/
def nextRam (s : State) : Mem 16 :=
  if sig s.cw .ri then s.ram.write s.mar.toNat ((resolvedBus s).setWidth 16) else s.ram

/-- All effects of the executing pass, together, and the step advance `T <- (T + 1) mod 8` (R105, R76). -/
def commit (s : State) : State :=
  { s with
    bus := resolvedBus s
    pc := nextPc s
    ir := nextIr s
    a := nextA s
    b := nextB s
    out := nextOut s
    mar := nextMar s
    flags := nextFlags s
    aluRes := (nextAlu s).res
    aluZ := (nextAlu s).z
    aluC := (nextAlu s).c
    ram := nextRam s
    t := s.t + 1 }

/-- The executing pass of a HIGH tick: contention is decided first, from the control word alone (R72, R135); then a RAM
access outside RAM (R38); a fault discards the pass (R133); otherwise everything lands (R105). -/
def executingPass (s : State) : State :=
  if contends s.cw then s.raiseFault .busContention
  else if accessesRam s.cw = true ∧ ¬ s.InRam s.mar.toNat then s.raiseFault .outOfRange
  else commit s

end Sys2Proof.Machine
end

