-- ==== Sys2Proof/Machine/Tick.lean ====
section
/-! DEFINITION. Machine/Tick.lean: the tick, "the whole step of the engine" (spec/40_engine_cycle.md R64), and runs of ticks
up to an instruction boundary. -/

namespace Sys2Proof.Machine

/-- Flip the phase (R66), fetch and unpack the control word (R67), dispatch: HLT HIGH requests the halt, HLT LOW leaves HALT
as it is (R69, decision D12). -/
def latchPass (s : State) : State :=
  { s with
    phase := s.phase.not
    cw := s.fetchedWord
    halt := if sig s.fetchedWord .hlt then .high else s.halt }

/-- `tick(singleStep)` (R64): nothing after a fault (R133), nothing when frozen (R65), else the latch pass and, on a HIGH
phase only, the executing pass (R75). -/
def tick (singleStep : Bool) (s : State) : State :=
  if s.fault ≠ none then s
  else if singleStep = false ∧ s.halt = .high then s
  else
    match (latchPass s).phase with
    | .low => latchPass s
    | .high => executingPass (latchPass s)

/-- The argument the host gives `tick` in a drive mode (R82, R83). -/
def Drive.tickArgument : Drive → Bool
  | .continuous => false
  | .singleStep => true

/-- One tick, as the host of this state calls it. -/
def State.hostTick (s : State) : State := tick s.drive.tickArgument s

/-- `n` ticks, as the host of this state calls them. -/
def ticks : Nat → State → State
  | 0, s => s
  | n + 1, s => ticks n s.hostTick

/-- Further ticks change nothing: a fault (R133) or a frozen continuous run (R65). -/
abbrev State.Stopped (s : State) : Prop := s.fault ≠ none ∨ s.Frozen

/-- At most `n` ticks, ending at the next instruction boundary or where ticks stop having an effect. -/
def ticksToBoundary : Nat → State → State
  | 0, s => s
  | n + 1, s =>
    if s.hostTick.Stopped ∨ s.hostTick.AtCycleStart then s.hostTick else ticksToBoundary n s.hostTick

/-- The rest of the instruction cycle: sixteen ticks from its start (R77, R116), fewer from inside it. -/
def runCycle (s : State) : State := ticksToBoundary 16 s

/-- What the machine does from a state that is not the start of an instruction's cycle: no tick after a fault (R133),
otherwise the ticks to the next boundary. -/
def resume (s : State) : Host.Outcome State Fault Refusal :=
  match s.fault with
  | some k => .fault (.engineFaulted k)
  | none => .next (runCycle s)

/-- At most `n` calls of `tick(true)`, ending after one that fetches a word with HLT. -/
def singleStepsToHlt : Nat → State → State
  | 0, s => s
  | n + 1, s => if sig (tick true s).cw .hlt then tick true s else singleStepsToHlt n (tick true s)

/-- The instruction step, the composite host operation of R84 (decision D28), from a state with `PHASE = LOW`, `T = 0`. -/
def instructionStep (s : State) : State := singleStepsToHlt 16 s

end Sys2Proof.Machine
end

