-- ==== Sys2Proof/Machine/Cycle.lean ====
section
/-! DEFINITION. Machine/Cycle.lean: the frame common to every instruction (spec/43_instructions.md R116, R117). The meanings
of the instruction files say what R119 to R130 say; those rules hold from the start of an instruction cycle under the
reference firmware. In every other state a meaning is the tick level itself, with the instruction standing at PC, so that no
firmware and no point of a cycle is left out (log 8). -/

namespace Sys2Proof.Machine

/-- T0 and T1 of R116: `MAR <- p; IR <- zext_16(w); PC <- (p + 1) mod 256; BUS <- w`. -/
def State.fetchInstr (s : State) (w : Byte) : State :=
  { s with mar := s.pc, ir := w.setWidth 16, pc := s.pc + 1, bus := w }

/-- The end of a cycle: `PHASE = LOW`, `T = 0` and `CW = 0x2002`, the T0 word of the new opcode's row (R116). -/
def State.endCycle (s : State) : State := s.setTiming .low 0 0x2002

/-- T1's fault when `p >= RAM_SIZE`: T0 has set MAR and the Bus, the HIGH tick of T1 has fetched 0x1028 (R117, R133). -/
def State.fetchFault (s : State) : State :=
  (((s.setMar s.pc).setBus s.pc).setTiming .high 1 0x1028).raiseFault .outOfRange

/-- The operand as RAM address: T2 sets `MAR <- n`; T3, whose word is `w3`, faults when `n >= RAM_SIZE`, else `effect` acts
(R117, R120 to R123). -/
def State.atOperand (s : State) (n : Nibble) (w3 : ControlWord) (effect : State → State) : State :=
  let m := (s.setMar (operandByte n)).setBus (operandByte n)
  if m.InRam n.toNat then effect m else (m.setTiming .high 3 w3).raiseFault .outOfRange

/-- The byte an instruction reads from RAM: `RAM[n] mod 256` (R120, decision D7). -/
def State.operandInRam (s : State) (n : Nibble) : Byte := lowByte (s.ramAt n.toNat)

/-- The state with `w` as the instruction word at PC: unchanged when the cell there already carries it. -/
def State.placeInstr (s : State) (w : Byte) : State :=
  if lowByte (s.ramAt s.pc.toNat) = w then s else s.writeCell s.pc.toNat (w.setWidth 16)

/-- One instruction cycle of instruction `i`, whose effect after the fetch is `effect`: no step after a fault (R133); no
change in a frozen continuous run (R65); from the start of a cycle under the reference firmware, the fetch and the effect
(R116), or the fetch's fault (R117); otherwise the tick level (R64). -/
def cycle (i : Instr) (effect : State → State) (s : State) : Host.Outcome State Fault Refusal :=
  match s.fault with
  | some k => .fault (.engineFaulted k)
  | none =>
    if s.Frozen then .next s
    else if s.AtCycleStart ∧ s.HasReferenceFirmware then
      if s.InRam s.pc.toNat then .next (effect (s.fetchInstr (encode s.hltOpcode i))) else .next s.fetchFault
    else .next (runCycle (s.placeInstr (encode s.hltOpcode i)))

/-- The instruction the machine runs next, at the start of a cycle: the cell at PC, decoded (R16, R58). None inside a cycle,
where the instruction in IR is still running, and none where PC names no cell (R38). -/
def State.nextInstr (s : State) : Option Instr :=
  if s.AtCycleStart ∧ s.InRam s.pc.toNat then some (decodeCell s.hltOpcode (s.ramAt s.pc.toNat)) else none

/-- The state with an instruction of `nbits` bits, value `w`, placed to run next: its word in the cell at PC, the start of a
cycle, and HALT LOW where the host runs continuously, as boot step 4 of spec/70_reset_and_hazards.md R150 sets it (log 7). -/
def State.placeNext (s : State) (nbits w : Nat) : State :=
  { s.writeCell s.pc.toNat (BitVec.ofNat 16 (w % 2 ^ nbits)) with
    phase := .low
    t := 0
    halt := match s.drive with
      | .continuous => .low
      | .singleStep => s.halt }

end Sys2Proof.Machine
end

