-- ==== Sys2Proof/Machine/Arithmetic.lean ====
section
/-! DEFINITION. Machine/Arithmetic.lean: ADD and SUB (spec/43_instructions.md R121, R122), the only instructions that write
FLAGS and the ALU's stored values (R118). -/

namespace Sys2Proof.Machine

/-- The effect of ADD and SUB at T3 and T4: `B <- v`, then A, ALU_RES and the Bus take the ALU's result, FLAGS, ALU_Z and
ALU_C its flags (R121, R122). -/
def State.accumulate (s : State) (v : Byte) (subtract : Bool) : State :=
  let r := aluCompute s.a v subtract
  ((((s.setB v).setA r.res).setFlags r.z r.c).setAlu r).setBus r.res

/-- ADD (R121): adds `RAM[n] mod 256` to A; T3's word is RO|BI. -/
def execAdd (n : Nibble) (s : State) : Host.Outcome State Fault Refusal :=
  cycle (.add n) (fun f => f.atOperand n 0x0408 fun m => (m.accumulate (m.operandInRam n) false).endCycle) s

/-- SUB (R122): subtracts `RAM[n] mod 256` from A; CF = 1 means no borrow (decision D4); T3's word is RO|BI. -/
def execSub (n : Nibble) (s : State) : Host.Outcome State Fault Refusal :=
  cycle (.sub n) (fun f => f.atOperand n 0x0408 fun m => (m.accumulate (m.operandInRam n) true).endCycle) s

end Sys2Proof.Machine
end

