-- ==== Sys2Proof/Machine/Halt.lean ====
section
/-! DEFINITION. Machine/Halt.lean: HLT (spec/43_instructions.md R129). -/

namespace Sys2Proof.Machine

/-- HLT (R129): `HALT <- HIGH` when the LOW tick before T2 fetches the word 0x0001. A continuous run freezes there, at
`PHASE = LOW`, `T = 2`, `CW = 0x0001`; in single-step mode the cycle runs to its end. -/
def execHlt (x : Nibble) (s : State) : Host.Outcome State Fault Refusal :=
  cycle (.hlt x) (fun f =>
    match f.drive with
    | .continuous => (f.setHalt .high).setTiming .low 2 0x0001
    | .singleStep => (f.setHalt .high).endCycle) s

end Sys2Proof.Machine
end

