-- ==== Sys2Proof/Machine/Idle.lean ====
section
/-! DEFINITION. Machine/Idle.lean: NOP and the unassigned opcodes (spec/43_instructions.md R119, R130). Unassigned row `k`
has opcode `k`, or 15 where HLT has taken `k` (log 3); the word in IR is the only thing that depends on it. -/

namespace Sys2Proof.Machine

/-- NOP (R119): the fetch only. -/
def execNop (x : Nibble) (s : State) : Host.Outcome State Fault Refusal :=
  cycle (.nop x) State.endCycle s

/-- Unassigned row 10 (R130): executes as NOP under the reference firmware. -/
def execUnassigned10 (x : Nibble) (s : State) : Host.Outcome State Fault Refusal :=
  cycle (.unassigned10 x) State.endCycle s

/-- Unassigned row 11 (R130): executes as NOP under the reference firmware. -/
def execUnassigned11 (x : Nibble) (s : State) : Host.Outcome State Fault Refusal :=
  cycle (.unassigned11 x) State.endCycle s

/-- Unassigned row 12 (R130): executes as NOP under the reference firmware. -/
def execUnassigned12 (x : Nibble) (s : State) : Host.Outcome State Fault Refusal :=
  cycle (.unassigned12 x) State.endCycle s

/-- Unassigned row 13 (R130): executes as NOP under the reference firmware. -/
def execUnassigned13 (x : Nibble) (s : State) : Host.Outcome State Fault Refusal :=
  cycle (.unassigned13 x) State.endCycle s

/-- Unassigned row 14 (R130): executes as NOP under the reference firmware. -/
def execUnassigned14 (x : Nibble) (s : State) : Host.Outcome State Fault Refusal :=
  cycle (.unassigned14 x) State.endCycle s

end Sys2Proof.Machine
end

