-- ==== Sys2Proof/Machine/Jump.lean ====
section
/-! DEFINITION. Machine/Jump.lean: JMP, JC and JZ (spec/43_instructions.md R125 to R127). The target is the operand,
absolute; JC and JZ test the flags the register held when the instruction began. -/

namespace Sys2Proof.Machine

/-- A taken jump: `PC <- n; BUS <- n` (R125). -/
def State.jumpTo (s : State) (n : Nibble) : State := (s.setPc (operandByte n)).setBus (operandByte n)

/-- JMP (R125). -/
def execJmp (n : Nibble) (s : State) : Host.Outcome State Fault Refusal :=
  cycle (.jmp n) (fun f => (f.jumpTo n).endCycle) s

/-- JC (R126): jumps when CF is 1; otherwise nothing more. -/
def execJc (n : Nibble) (s : State) : Host.Outcome State Fault Refusal :=
  cycle (.jc n) (fun f => (if carryFlag f.flags then f.jumpTo n else f).endCycle) s

/-- JZ (R127): jumps when ZF is 1; otherwise nothing more. -/
def execJz (n : Nibble) (s : State) : Host.Outcome State Fault Refusal :=
  cycle (.jz n) (fun f => (if zeroFlag f.flags then f.jumpTo n else f).endCycle) s

end Sys2Proof.Machine
end

