-- ==== Sys2Proof/Machine/Transfer.lean ====
section
/-! DEFINITION. Machine/Transfer.lean: LDA, STA, LDI and OUT (spec/43_instructions.md R120, R123, R124, R128). None of them
touches FLAGS (R118). -/

namespace Sys2Proof.Machine

/-- LDA (R120): `MAR <- n; A <- RAM[n] mod 256; BUS <- RAM[n] mod 256`; T3's word is RO|AI. -/
def execLda (n : Nibble) (s : State) : Host.Outcome State Fault Refusal :=
  cycle (.lda n) (fun f => f.atOperand n 0x0048 fun m =>
    ((m.setA (m.operandInRam n)).setBus (m.operandInRam n)).endCycle) s

/-- STA (R123): `MAR <- n; RAM[n] <- zext_16(A); BUS <- A`; T3's word is AO|RI. -/
def execSta (n : Nibble) (s : State) : Host.Outcome State Fault Refusal :=
  cycle (.sta n) (fun f => f.atOperand n 0x0084 fun m =>
    ((m.writeCell n.toNat (m.a.setWidth 16)).setBus m.a).endCycle) s

/-- LDI (R124): `A <- n; BUS <- n`, zero-extended. -/
def execLdi (n : Nibble) (s : State) : Host.Outcome State Fault Refusal :=
  cycle (.ldi n) (fun f => ((f.setA (operandByte n)).setBus (operandByte n)).endCycle) s

/-- OUT (R128): `OUT <- A; BUS <- A`. -/
def execOut (x : Nibble) (s : State) : Host.Outcome State Fault Refusal :=
  cycle (.out x) (fun f => ((f.setOut f.a).setBus f.a).endCycle) s

end Sys2Proof.Machine
end

