-- ==== Sys2Proof/Machine/Dispatch.lean ====
section
/-! DEFINITION. Machine/Dispatch.lean: one arm per instruction, each one call of its meaning. -/

namespace Sys2Proof.Machine

def exec (i : Instr) (s : State) : Host.Outcome State Fault Refusal :=
  match i with
  | .nop x => Sys2Proof.Machine.execNop x s
  | .lda n => Sys2Proof.Machine.execLda n s
  | .add n => Sys2Proof.Machine.execAdd n s
  | .sub n => Sys2Proof.Machine.execSub n s
  | .sta n => Sys2Proof.Machine.execSta n s
  | .ldi n => Sys2Proof.Machine.execLdi n s
  | .jmp n => Sys2Proof.Machine.execJmp n s
  | .jc n => Sys2Proof.Machine.execJc n s
  | .jz n => Sys2Proof.Machine.execJz n s
  | .out x => Sys2Proof.Machine.execOut x s
  | .unassigned10 x => Sys2Proof.Machine.execUnassigned10 x s
  | .unassigned11 x => Sys2Proof.Machine.execUnassigned11 x s
  | .unassigned12 x => Sys2Proof.Machine.execUnassigned12 x s
  | .unassigned13 x => Sys2Proof.Machine.execUnassigned13 x s
  | .unassigned14 x => Sys2Proof.Machine.execUnassigned14 x s
  | .hlt x => Sys2Proof.Machine.execHlt x s

end Sys2Proof.Machine
end

