-- ==== Sys2Proof/Machine/Step.lean ====
section
/-! DEFINITION. Machine/Step.lean: one step of the machine is one instruction cycle as the host of the state drives it
(log 8): at the start of a cycle the instruction at PC runs; anywhere else the cycle in progress goes on to its end. -/

namespace Sys2Proof.Machine

/-- One step (spec/43_instructions.md R116 over the ticks of spec/40_engine_cycle.md R64). -/
def step (s : State) : Host.Outcome State Fault Refusal :=
  match s.nextInstr with
  | some i => exec i s
  | none => resume s

/-- `s` with an instruction stored where `step` fetches its next one, so that the very next step runs it (log 7). -/
def State.withFetchWord (s : State) (nbits w : Nat) : State := s.placeNext nbits w

end Sys2Proof.Machine
end

