-- ==== Sys2Proof/Machine/Control.lean ====
section
/-! DEFINITION. Machine/Control.lean: the host's control interface (spec/40_engine_cycle.md R78 to R82), construction and
reset (spec/70_reset_and_hazards.md R146 to R150), program load (spec/20_memory.md R44) and inspection (spec/10_state.md
R33, R34). -/

namespace Sys2Proof.Machine

/-- The operations the host has on the core (R78). -/
inductive HostOp where
  | tick (singleStep : Bool)
  | setFrequency (hz : Rat)
  | setHaltInput (level : Level)
  | reset
  | loadProgram (words : List Int)
  deriving DecidableEq, Repr

/-- `setFrequency(hz)`: a positive frequency is set; any other is rejected and changes no state (R79). -/
def setFrequency (hz : Rat) (s : State) : Host.Outcome State Fault Refusal :=
  if 0 < hz then .next { s with freq := hz } else .refused .frequencyNotPositive

/-- `setHaltInput(state)` sets HALT (R80). -/
def setHaltInput (level : Level) (s : State) : State := s.setHalt level

/-- `reset()`: the values of R32; FREQ, the ROM, FAULT (and RAM's length, the HLT opcode, and how the host calls `tick`) stay (R146). -/
def hostReset (s : State) : State :=
  { State.fresh s.hltOpcode s.ramSize s.freq s.romA s.romB with fault := s.fault, drive := s.drive }

/-- Whether a number is a 16-bit word (R44). -/
def isWord (v : Int) : Bool := decide (0 ≤ v ∧ v ≤ 65535)

/-- `loadProgram(words)`: a word outside 0 to 65535 is refused; more words than RAM has cells raise `Fault(OutOfRange)`
before any cell is written; otherwise the words are copied from address 0 and nothing else changes (R44, decision D20).
Where both apply the refusal is taken (DESIGN CHOICE, log 11). -/
def loadProgram (words : List Int) (s : State) : Host.Outcome State Fault Refusal :=
  if words.all isWord = false then .refused .wordOutOfRange
  else if s.ramSize < words.length then .next (s.raiseFault .outOfRange)
  else .next { s with ram := s.ram.writeAll 0 (words.map (BitVec.ofInt 16)) }

/-- One host operation between ticks (R78, R81). -/
def hostOp (op : HostOp) (s : State) : Host.Outcome State Fault Refusal :=
  match op with
  | .tick singleStep => .next (tick singleStep s)
  | .setFrequency hz => setFrequency hz s
  | .setHaltInput level => .next (setHaltInput level s)
  | .reset => .next (hostReset s)
  | .loadProgram words => loadProgram words s

/-- Construction with an initial frequency and the firmware resource: the state of R148, or `FatalStartup` (R42, R150); a
frequency that is not positive is rejected (R79; log 5). -/
def construct (hltOpcode : HltOpcode) (ramSize : Nat) (hz : Rat) (resource : Option (List Line)) :
    Host.Outcome State Fault Refusal :=
  if 0 < hz then
    match loadFirmware resource with
    | some (romA, romB) => .next (State.fresh hltOpcode ramSize hz romA romB)
    | none => .fault .startupFailed
  else .refused .frequencyNotPositive

/-- The host changes how it calls `tick` (R82, R83); no state of the engine changes (log 6). -/
def setDrive (d : Drive) (s : State) : State := { s with drive := d }

/-- What the inspection interface shows (R33); the ALU's stored values are not in it. -/
structure Inspection where
  pc : Byte
  ir : Word
  a : Byte
  b : Byte
  flags : BitVec 2
  out : Byte
  mar : Byte
  bus : Byte
  phase : Level
  freq : Rat
  halt : Level
  t : BitVec 3
  cw : ControlWord
  ram : Mem 16
  deriving DecidableEq, Repr

/-- The read-only accessors (R33). -/
def inspect (s : State) : Inspection where
  pc := s.pc
  ir := s.ir
  a := s.a
  b := s.b
  flags := s.flags
  out := s.out
  mar := s.mar
  bus := s.bus
  phase := s.phase
  freq := s.freq
  halt := s.halt
  t := s.t
  cw := s.cw
  ram := s.ram

/-- "highest non-zero address": the largest RAM address whose cell is not 0, or none (R34, decision D26). -/
def highestNonZeroAddress (s : State) : Option Nat := s.ram.highestNonZero s.ramSize

/-- The tick period in nanoseconds, 1e9 / frequency (R86). Timing only: no rule of the model reads it (log 13). -/
def tickPeriod (s : State) : Rat := 1000000000 / s.freq

end Sys2Proof.Machine
end

