-- ==== Sys2Proof/Safety.lean ====
section
/-! DEFINITION. Safety.lean: what claims call a well-formed state, a state an instruction runs from, and the end of a run. -/

namespace Sys2Proof.Machine

/-- The memories are in their canonical form: RAM as long as RAM_SIZE, the ROM banks 512 bytes each (R29, R35, R39). -/
abbrev State.MemoriesWf (s : State) : Prop :=
  Mem.wf s.ramSize s.ram = true ∧ Mem.wf Config.romSize s.romA = true ∧ Mem.wf Config.romSize s.romB = true

/-- A state the machine can be in: canonical memories, `IR[15:8] = 0` (R17), a positive frequency (R28), and no engine
state with FatalStartup recorded, since construction fails then (R132). -/
abbrev State.Inv (s : State) : Prop :=
  s.MemoriesWf ∧ s.ir.extractLsb' 8 8 = 0 ∧ 0 < s.freq ∧ s.fault ≠ some .fatalStartup

/-- An instruction cycle of the reference firmware can run from here to its end (R116, R117): the start of a cycle, no fault,
ticks not frozen, the reference firmware in the ROM, and PC naming a RAM cell. -/
abbrev State.Ready (s : State) : Prop :=
  s.fault = none ∧ s.AtCycleStart ∧ ¬ s.Frozen ∧ s.HasReferenceFirmware ∧ s.InRam s.pc.toNat

/-- The final state of a run (spec/40_engine_cycle.md R85): no fault, HALT HIGH, and a host that calls only `tick(false)`. -/
abbrev State.Final (s : State) : Prop := s.fault = none ∧ s.halt = .high ∧ s.drive = .continuous

end Sys2Proof.Machine
end

