-- ==== Sys2Proof/Certificates/Slice0/Obligations.lean ====
section
/-! DEFINITION. Certificates/Slice0/Obligations.lean: what is claimed of the model, from the numbered rules of spec/. A
statement whose rule rests on a decision of spec/92_eei_decisions.md (D<n>), on the reference firmware (D1) or on an inference
the spec marks as its own says so; the model follows those decisions (log 14) and adds its own choices only where a log
entry is named. The final states of the instructions are written out field by field, not with the meanings' own functions. -/

open Sys2Proof Sys2Proof.Machine

/-! Encodings. -/

/-- Decoding what was encoded gives the instruction back, operand included, and encoding what was decoded gives the low byte
of the cell back: bits 15:8 "never reach IR". Whatever the HLT opcode. R58, R60, R61 (decisions D2, D6, D21; log 3). -/
def Obligations.DecodeEncodeAgree : Prop :=
  ∀ h : HltOpcode,
    (∀ i : Instr, decode h (encode h i) = i) ∧
    ∀ c : Word, encodeCell h (decodeCell h c) = c &&& 0x00FF

/-- Instruction words written out from R58 and R60 decode to the instructions of spec/95_test_vectors.md L2.3 (D2, D6); with
another HLT opcode that opcode is HLT, and 15 is an unassigned one (R129, R130; its constructor is the model's choice,
log 3). -/
def Obligations.SpecWordsDecode : Prop :=
  decode .fifteen 0b00000000 = .nop 0 ∧ decode .fifteen 0b00011110 = .lda 14 ∧ decode .fifteen 0b00101111 = .add 15 ∧
  decode .fifteen 0b00111111 = .sub 15 ∧ decode .fifteen 0b01001111 = .sta 15 ∧ decode .fifteen 0b01011010 = .ldi 10 ∧
  decode .fifteen 0b01100001 = .jmp 1 ∧ decode .fifteen 0b01110101 = .jc 5 ∧ decode .fifteen 0b10000100 = .jz 4 ∧
  decode .fifteen 0b10010000 = .out 0 ∧ decode .fifteen 0b10100111 = .unassigned10 7 ∧
  decode .fifteen 0b11100001 = .unassigned14 1 ∧ decode .fifteen 0b11110000 = .hlt 0 ∧
  decode .ten 0b10100111 = .hlt 7 ∧ decode .ten 0b11110000 = .unassigned10 0 ∧ decode .fourteen 0b11100001 = .hlt 1

/-- The assembler's forms, for every HLT opcode (R63, decisions D2, D31): NOP, OUT and HLT take no operand and encode operand 0;
the others take a decimal number 0 to 15 and are encoded as `(opcode << 4) | n`; a larger number is refused. -/
def Obligations.AssemblerForms : Prop :=
  (∀ (h : HltOpcode) (m : Mnemonic) (k : Nat), (m, k) ∈ [(.nop, 0), (.out, 9), (.hlt, h.value.toNat)] →
    assemble h ⟨m, none⟩ = some (BitVec.ofNat 16 (16 * k)) ∧ ∀ n, assemble h ⟨m, some n⟩ = none) ∧
  (∀ (h : HltOpcode) (m : Mnemonic) (k : Nat),
    (m, k) ∈ [(.lda, 1), (.add, 2), (.sub, 3), (.sta, 4), (.ldi, 5), (.jmp, 6), (.jc, 7), (.jz, 8)] →
    assemble h ⟨m, none⟩ = none ∧
    ∀ n, assemble h ⟨m, some n⟩ = if n ≤ 15 then some (BitVec.ofNat 16 (16 * k + n)) else none)

/-- R57: the triples of flags, opcode and step map one to one onto the ROM addresses. -/
def Obligations.RomAddressOneToOne : Prop :=
  (∀ (f f' : BitVec 2) (o o' : Nibble) (t t' : BitVec 3),
    romAddress f o t = romAddress f' o' t' → f = f' ∧ o = o' ∧ t = t') ∧
  ∀ a : BitVec 9, ∃ (f : BitVec 2) (o : Nibble) (t : BitVec 3), romAddress f o t = a

/-- The ROM address of a state as a number: `(ZF << 8) | (CF << 7) | (IR[7:4] << 3) | T`. R56 (decisions D3, D5). -/
def Obligations.RomAddressOfState : Prop :=
  ∀ s : State, s.romAddress.toNat =
    256 * (zeroFlag s.flags).toNat + 128 * (carryFlag s.flags).toNat + 8 * (s.ir.toNat / 16 % 16) + s.t.toNat

/-- R55: bit `i` of the integer is the signal at position `i`, so the signals determine the word; every value is fetched as a
control word; two Bus drivers in it are a fault of the HIGH tick, not a refusal of the fetch (R67, R72). The ticks' clauses rest
on the decisions D11 and D13 (log 14). -/
def Obligations.ControlWordSignals : Prop :=
  (∀ (v : ControlWord) (x : Signal), sig v x = true ↔ v.toNat / 2 ^ x.position % 2 = 1) ∧
  (∀ v w : ControlWord, (∀ x, sig v x = sig w x) → v = w) ∧
  ∀ (b : Bool) (s : State), s.fault = none → (b = true ∨ s.halt = .low) →
    (tick b s).cw = s.fetchedWord ∧
    (s.phase = .low → 2 ≤ (drivers s.fetchedWord).length → (tick b s).fault = some .busContention)

/-- `RomRead(a) = (highByte << 8) | lowByte`, one byte from each bank: the first sentence of R40. That the address is below 512 is
its second sentence, which the spec marks as its own inference [derived: from rule R56]. -/
def Obligations.RomReadJoinsBanks : Prop :=
  ∀ (romA romB : Mem 8) (a : BitVec 9),
    (romRead romA romB a).toNat = 256 * (romB.read a.toNat).toNat + (romA.read a.toNat).toNat ∧ a.toNat < 512

/-! Firmware. -/

/-- R62: a data line is exactly 16 characters of '0' and '1', character `k` being bit `15 - k`; empty lines and lines that
start with '#' carry no control word. -/
def Obligations.FirmwareLineFormat : Prop :=
  (∀ (l : Line) (v : ControlWord), parseLine l = some v ↔
    l.length = 16 ∧ (∀ c ∈ l, c = '0' ∨ c = '1') ∧ ∀ k, k < 16 → v.getLsbD (15 - k) = decide (l[k]? = some '1')) ∧
  parseLine "0010000000000010".toList = some (ofSignals [.co, .mi]) ∧
  ∀ (l : Line) (ls : List Line), (l = [] ∨ l.head? = some '#') → parseLines (l :: ls) = parseLines ls

/-- Loading the words of a firmware written as lines gives the words back, with zero words after the last line; comment and
empty lines change nothing. R42, R113 (decision D18). -/
def Obligations.FirmwareRoundTrip : Prop :=
  (∀ ws : List ControlWord, ws.length ≤ 512 →
    ∃ romA romB, loadFirmware (some (ws.map formatLine)) = some (romA, romB) ∧
      ∀ a : BitVec 9, romRead romA romB a = ws.getD a.toNat 0) ∧
  ∀ ls : List Line, loadFirmware (some ls) = loadFirmware (some (ls.filter fun l => !skipsLine l))

/-- Construction: a missing resource, a malformed data line and more than 512 data lines fail it; a firmware that loads gives the
reset state, with the given parameters (HLT opcode, RAM size, frequency), the ROM as loaded and no fault. R42, R132, R148,
R150 (decisions D17, D19, D27). -/
def Obligations.ConstructionLoadsFirmware : Prop :=
  ∀ (h : HltOpcode) (n : Nat) (hz : Rat), 0 < hz →
    construct h n hz none = .fault .startupFailed ∧
    (∀ ls : List Line,
      ((∃ l ∈ ls, skipsLine l = false ∧ parseLine l = none) ∨ 512 < (ls.filter fun l => !skipsLine l).length) →
      construct h n hz (some ls) = .fault .startupFailed) ∧
    ∀ (r : Option (List Line)) (romA romB : Mem 8), loadFirmware r = some (romA, romB) →
      construct h n hz r = .next
        { phase := .low, halt := .high, freq := hz, t := 0, cw := 0, bus := 0, pc := 0, ir := 0, a := 0, b := 0, flags := 0,
          out := 0, mar := 0, aluRes := 0, aluZ := false, aluC := false, ram := [], ramSize := n, hltOpcode := h,
          romA := romA, romB := romB, fault := none, drive := .continuous }

/-- Every word of the reference firmware of every HLT opcode, at its ROM address: the fetch words in every row, the execute words
of each opcode, zero elsewhere. R107 to R112 (decisions D1, D2, D3; log 2). -/
def Obligations.ReferenceFirmwareWords : Prop :=
  ∀ (h : HltOpcode) (zf cf : Bool) (op : Nibble) (t : BitVec 3),
    romRead (referenceBankA h) (referenceBankB h) (romAddress (packFlags zf cf) op t) =
      if t = 0 then ofSignals [.mi, .co]
      else if t = 1 then ofSignals [.ro, .ii, .ce]
      else if t = 2 ∧ op ∈ [(1 : Nibble), 2, 3, 4] then ofSignals [.mi, .io]
      else if t = 2 ∧ op = 5 then ofSignals [.io, .ai]
      else if t = 2 ∧ (op = 6 ∨ (op = 7 ∧ cf = true) ∨ (op = 8 ∧ zf = true)) then ofSignals [.io, .j]
      else if t = 2 ∧ op = 9 then ofSignals [.ao, .oi]
      else if t = 2 ∧ op = h.value then ofSignals [.hlt]
      else if t = 3 ∧ op = 1 then ofSignals [.ro, .ai]
      else if t = 3 ∧ (op = 2 ∨ op = 3) then ofSignals [.ro, .bi]
      else if t = 3 ∧ op = 4 then ofSignals [.ao, .ri]
      else if t = 4 ∧ op = 2 then ofSignals [.eo, .ai, .fi]
      else if t = 4 ∧ op = 3 then ofSignals [.eo, .ai, .su, .fi]
      else 0

/-- No word of the reference image has two Bus drivers, and a word that reads the Bus has one. R114 (decision D1). -/
def Obligations.ReferenceWordsOneDriver : Prop :=
  ∀ (h : HltOpcode) (a : BitVec 9),
    (drivers (referenceImage h.value a)).length ≤ 1 ∧
    (readsBus (referenceImage h.value a) = true → (drivers (referenceImage h.value a)).length = 1)

/-! The tick. -/

/-- R65: with HALT HIGH, `tick(false)` changes no state at all; `tick(true)` runs whatever HALT is: it does the same under both
values of HALT, what it does is what `tick(false)` does with HALT LOW, and it flips the phase. (The last sentence of the
rule is about real time, which is out of scope: log 13.) -/
def Obligations.HaltFreezesContinuousTicks : Prop :=
  (∀ s : State, s.halt = .high → tick false s = s) ∧
  ∀ s : State,
    (tick true (s.setHalt .high)).setHalt .high = (tick true (s.setHalt .low)).setHalt .high ∧
    tick true (s.setHalt .low) = tick false (s.setHalt .low) ∧
    (s.fault = none → (tick true s).phase = s.phase.not)

/-- R26: PHASE flips on every tick that is not frozen (and that is a tick: there is none after a fault, R64), and reset
leaves it LOW. -/
def Obligations.PhaseAlternates : Prop :=
  (∀ (b : Bool) (s : State), s.fault = none → (b = true ∨ s.halt = .low) → (tick b s).phase = s.phase.not) ∧
  ∀ s : State, (hostReset s).phase = .low

/-- Every tick that is not frozen, LOW or HIGH, fetches the word at the ROM address of the state, and HALT becomes HIGH when the
word has HLT and otherwise stays; the HIGH tick after a LOW tick fetches the same word again. R67, R69 (decisions D11, D12). -/
def Obligations.EveryTickFetches : Prop :=
  ∀ (b : Bool) (s : State), s.fault = none → (b = true ∨ s.halt = .low) →
    (tick b s).cw = romRead s.romA s.romB s.romAddress ∧
    (tick b s).halt = (if (romRead s.romA s.romB s.romAddress).getLsbD 0 then .high else s.halt) ∧
    (s.phase = .high → (tick true (tick b s)).cw = (tick b s).cw)

/-- R75: a LOW tick changes only PHASE, CW and possibly HALT. -/
def Obligations.LowTickExecutesNothing : Prop :=
  ∀ (b : Bool) (s : State), s.phase = .high →
    tick b s = { s with phase := (tick b s).phase, cw := (tick b s).cw, halt := (tick b s).halt }

/-- A HIGH tick that does not fault advances T by one modulo 8, whatever the word, and the next fetch reads the row of the
opcode and the flags that the tick left; no other tick advances T. R76 (decision D3 for the row's flags). -/
def Obligations.StepIndexAdvances : Prop :=
  ∀ (b : Bool) (s : State), s.fault = none → (b = true ∨ s.halt = .low) →
    (s.phase = .low → (tick b s).fault = none →
      (tick b s).t.toNat = (s.t.toNat + 1) % 8 ∧
      (tick b s).romAddress = (tick b s).flags ++ irOpcode (tick b s).ir ++ (s.t + 1)) ∧
    (s.phase = .high → (tick b s).t = s.t) ∧
    ((tick b s).fault ≠ none → (tick b s).t = s.t)

/-- The Bus after a HIGH tick that does not fault: the one driver's value, else the value it kept. R73, R90, R91, R94, R95, R100
(decisions D7, D13, D14, D15, and the signal wiring the spec takes from general knowledge). -/
def Obligations.HighTickResolvesBus : Prop :=
  ∀ (b : Bool) (s : State), s.fault = none → (b = true ∨ s.halt = .low) → s.phase = .low → (tick b s).fault = none →
    (sig s.fetchedWord .co = true → (tick b s).bus = s.pc) ∧
    (sig s.fetchedWord .io = true → (tick b s).bus = BitVec.ofNat 8 (s.ir.toNat % 16)) ∧
    (sig s.fetchedWord .ao = true → (tick b s).bus = s.a) ∧
    (sig s.fetchedWord .eo = true → (tick b s).bus = if sig s.fetchedWord .su then s.a - s.b else s.a + s.b) ∧
    (sig s.fetchedWord .ro = true → sig s.fetchedWord .ri = false →
      (tick b s).bus = BitVec.ofNat 8 ((s.ramAt s.mar.toNat).toNat % 256)) ∧
    (drivers s.fetchedWord = [] → (tick b s).bus = s.bus)

/-- What a HIGH tick that does not fault leaves in MAR, IR, A, B, OUT and PC: the load signals take the resolved Bus, an asserted
output wins over the load of the same register, and CE increments after J. R88, R92, R93, R97, R98, R99, R101 (decisions
D8, D9, D15, D16, and the wiring from general knowledge). -/
def Obligations.HighTickLoadsRegisters : Prop :=
  ∀ (b : Bool) (s : State), s.fault = none → (b = true ∨ s.halt = .low) → s.phase = .low → (tick b s).fault = none →
    (tick b s).mar = (if sig s.fetchedWord .mi then (tick b s).bus else s.mar) ∧
    (tick b s).ir = (if sig s.fetchedWord .ii ∧ ¬ sig s.fetchedWord .io then (tick b s).bus.setWidth 16 else s.ir) ∧
    (tick b s).a = (if sig s.fetchedWord .ai ∧ ¬ sig s.fetchedWord .ao then (tick b s).bus else s.a) ∧
    (tick b s).b = (if sig s.fetchedWord .bi then (tick b s).bus else s.b) ∧
    (tick b s).out = (if sig s.fetchedWord .oi then (tick b s).bus else s.out) ∧
    (tick b s).pc = (if sig s.fetchedWord .j ∧ ¬ sig s.fetchedWord .co then (tick b s).bus else s.pc) +
      (if sig s.fetchedWord .ce then 1 else 0)

/-- What a HIGH tick that does not fault leaves in the ALU's stored values and in FLAGS: EO computes from the old A and B, and FI
takes the flags computed in this tick, or the stored ones when EO is LOW. R95, R96, R102 (decisions D3, D4, D15, and the
wiring from general knowledge). -/
def Obligations.HighTickComputesFlags : Prop :=
  ∀ (b : Bool) (s : State), s.fault = none → (b = true ∨ s.halt = .low) → s.phase = .low → (tick b s).fault = none →
    (sig s.fetchedWord .eo = true →
      (tick b s).aluRes = (if sig s.fetchedWord .su then s.a - s.b else s.a + s.b) ∧
      (tick b s).aluZ = decide ((tick b s).aluRes = 0) ∧
      (tick b s).aluC =
        (if sig s.fetchedWord .su then decide (s.b.toNat ≤ s.a.toNat) else decide (255 < s.a.toNat + s.b.toNat))) ∧
    (sig s.fetchedWord .eo = false →
      (tick b s).aluRes = s.aluRes ∧ (tick b s).aluZ = s.aluZ ∧ (tick b s).aluC = s.aluC) ∧
    (sig s.fetchedWord .fi = true →
      zeroFlag (tick b s).flags = (tick b s).aluZ ∧ carryFlag (tick b s).flags = (tick b s).aluC) ∧
    (sig s.fetchedWord .fi = false → (tick b s).flags = s.flags)

/-- RAM after any tick: the cell at the old MAR takes the Bus, zero-extended, on a HIGH tick with RI that does not fault; no
other cell and no other tick changes RAM. R50, R89, R36 (decision D15, and the wiring from general knowledge). -/
def Obligations.TickStoresOnlyAtOldMar : Prop :=
  ∀ (b : Bool) (s : State) (a : Nat),
    (tick b s).ramAt a =
      if s.fault = none ∧ (b = true ∨ s.halt = .low) ∧ s.phase = .low ∧ (tick b s).fault = none ∧
          sig s.fetchedWord .ri = true ∧ a = s.mar.toNat
      then (tick b s).bus.setWidth 16 else s.ramAt a

/-- When a HIGH tick faults, and what the fault leaves: contention from the word alone, before anything else; else an RI or RO with
MAR outside RAM; else none. A faulting tick keeps the phase flip, the new CW and HALT, and changes nothing else. R72, R38,
R133, R135 (decisions D13, D22, D30). -/
def Obligations.HighTickFaults : Prop :=
  ∀ (b : Bool) (s : State), s.fault = none → (b = true ∨ s.halt = .low) → s.phase = .low →
    if 2 ≤ (sig s.fetchedWord .co).toNat + (sig s.fetchedWord .io).toNat + (sig s.fetchedWord .ao).toNat +
        (sig s.fetchedWord .eo).toNat + (sig s.fetchedWord .ro && !sig s.fetchedWord .ri).toNat then
      tick b s = { s with
        phase := .high, cw := s.fetchedWord, halt := if sig s.fetchedWord .hlt then .high else s.halt,
        fault := some .busContention }
    else if (sig s.fetchedWord .ri = true ∨ sig s.fetchedWord .ro = true) ∧ s.ramSize ≤ s.mar.toNat then
      tick b s = { s with
        phase := .high, cw := s.fetchedWord, halt := if sig s.fetchedWord .hlt then .high else s.halt,
        fault := some .outOfRange }
    else (tick b s).fault = none

/-- R37: MemWrite puts the zero-extended value in its cell and changes nothing else; MemRead returns the cell; RI writes the Bus value
and RO puts the low 8 bits of the cell on the Bus without changing RAM; an access that is about to act outside RAM raises
OutOfRange instead (R38). The clauses about a pass rest on the decisions D13 (no contention), D15 (MAR is the old MAR), D22 (what
a faulting pass leaves) and on the wiring of RI, which the spec takes from general knowledge (log 14). -/
def Obligations.RamPrimitives : Prop :=
  (∀ (s : State) (a : Nat) (v : Byte), s.InRam a →
    (s.writeCell a (v.setWidth 16)).ramAt a = v.setWidth 16 ∧
    (∀ c, c ≠ a → (s.writeCell a (v.setWidth 16)).ramAt c = s.ramAt c) ∧
    s.writeCell a (v.setWidth 16) = { s with ram := (s.writeCell a (v.setWidth 16)).ram }) ∧
  ∀ s : State, contends s.cw = false →
    (s.InRam s.mar.toNat → sig s.cw .ri = true →
      (executingPass s).ramAt s.mar.toNat = (executingPass s).bus.setWidth 16) ∧
    (s.InRam s.mar.toNat → sig s.cw .ri = false → sig s.cw .ro = true →
      (executingPass s).bus = BitVec.ofNat 8 ((s.ramAt s.mar.toNat).toNat % 256) ∧ (executingPass s).ram = s.ram) ∧
    (¬ s.InRam s.mar.toNat → (sig s.cw .ri = true ∨ sig s.cw .ro = true) →
      executingPass s = { s with fault := some .outOfRange })

/-- The ALU on unsigned 8-bit values: the sum modulo 256 with its carry, the difference modulo 256 with CF = 1 for no borrow, and the
zero flag of the wrapped result. R103, R104 (decision D4 for the carry of a subtraction). -/
def Obligations.AluSumsAndDifferences : Prop :=
  ∀ a b : Byte,
    (aluCompute a b false).res.toNat = (a.toNat + b.toNat) % 256 ∧
    ((aluCompute a b false).z = true ↔ (a.toNat + b.toNat) % 256 = 0) ∧
    ((aluCompute a b false).c = true ↔ 255 < a.toNat + b.toNat) ∧
    (aluCompute a b true).res.toNat = (a.toNat + 256 - b.toNat) % 256 ∧
    ((aluCompute a b true).z = true ↔ a = b) ∧
    ((aluCompute a b true).c = true ↔ b.toNat ≤ a.toNat)

/-- From PHASE LOW, `2 m` ticks none of which is frozen or faults end in PHASE LOW with T advanced by `m`; the tick after them is a
HIGH tick. So an instruction cycle is sixteen ticks. R77, R66 (marked derived in the spec). -/
def Obligations.TwoTicksPerStep : Prop :=
  ∀ (s : State) (m : Nat), s.phase = .low → (∀ k, k < 2 * m → ¬ (ticks k s).Frozen) → (ticks (2 * m) s).fault = none →
    (ticks (2 * m) s).phase = .low ∧ (ticks (2 * m) s).t.toNat = (s.t.toNat + m) % 8 ∧
    (¬ (ticks (2 * m) s).Frozen → (ticks (2 * m + 1) s).phase = .high)

/-- No operation of the host clears FAULT, and no tick changes a faulted state. R30, R133 (decision D22). -/
def Obligations.FaultNeverCleared : Prop :=
  ∀ s : State, s.fault ≠ none →
    (∀ b : Bool, tick b s = s) ∧ ∀ (op : HostOp) (t : State), hostOp op s = .next t → t.fault ≠ none

/-- R41: construction writes the ROM banks from the firmware resource, and after it nothing writes them: no host operation, no
instruction, no step. -/
def Obligations.RomNeverWritten : Prop :=
  (∀ (h : HltOpcode) (n : Nat) (hz : Rat) (r : Option (List Line)) (t : State),
    construct h n hz r = .next t → loadFirmware r = some (t.romA, t.romB)) ∧
  (∀ (op : HostOp) (s t : State), hostOp op s = .next t → t.romA = s.romA ∧ t.romB = s.romB) ∧
  (∀ (i : Instr) (s t : State), exec i s = .next t → t.romA = s.romA ∧ t.romB = s.romB) ∧
  ∀ s t : State, step s = .next t → t.romA = s.romA ∧ t.romB = s.romB

/-! The host's operations. -/

/-- R79: a positive frequency is set and nothing else changes, and the next tick has it; any other is rejected, with no next
state. -/
def Obligations.SetFrequency : Prop :=
  ∀ (hz : Rat) (s : State),
    (0 < hz → hostOp (.setFrequency hz) s = .next { s with freq := hz } ∧
      ∀ b : Bool, (tick b { s with freq := hz }).freq = hz) ∧
    (hz ≤ 0 → hostOp (.setFrequency hz) s = .refused .frequencyNotPositive)

/-- No tick, no instruction cycle and no reset reads or changes the frequency. R28 (decision D17 for reset). -/
def Obligations.FrequencyNeverRead : Prop :=
  ∀ (hz : Rat) (s : State),
    (∀ b : Bool, tick b { s with freq := hz } = { tick b s with freq := hz }) ∧
    hostReset { s with freq := hz } = { hostReset s with freq := hz } ∧
    (∀ t : State, step s = .next t → step { s with freq := hz } = .next { t with freq := hz }) ∧
    ∀ b : Bool, (tick b s).freq = s.freq

/-- `setHaltInput` sets HALT alone; setting it HIGH stops a continuous run at once, and setting it LOW again gives back the state
the run was stopped in, however many ticks were tried between. R80 (a write during a tick is the operation before it or after
it: log 10). -/
def Obligations.HaltInputPausesAndResumes : Prop :=
  (∀ (l : Level) (s : State), hostOp (.setHaltInput l) s = .next { s with halt := l }) ∧
  ∀ (n : Nat) (s : State), s.drive = .continuous → s.halt = .low →
    ticks n (setHaltInput .high s) = setHaltInput .high s ∧
    setHaltInput .low (ticks n (setHaltInput .high s)) = s

/-- What reset leaves, from every state: R146, R32 (decisions D17, D22). -/
def Obligations.ResetValues : Prop :=
  ∀ s : State, hostOp .reset s = .next
    { s with
      phase := .low, halt := .high, t := 0, cw := 0, bus := 0, pc := 0, ir := 0, a := 0, b := 0, flags := 0, out := 0,
      mar := 0, aluRes := 0, aluZ := false, aluC := false, ram := [] }

/-- A second reset changes nothing, and after one all registers are 0, RAM is all zero, the phase is LOW, halt is HIGH and the step
index is 0. The first clause is about the whole state, BUS, CW, the ALU's values, FREQ and FAULT included (decisions D17, D22),
where the quoted words of R147 speak of the observable state only: it is that rule's sentence "This holds for the whole state of
this spec, because every value rule R146 writes is a constant and the values it keeps are not changed by reset", which the spec
marks as its own inference [derived: from rule R146]. That whole state here includes the model's own fields (log 3, 4, 6). The
values in the second clause are R147's quoted words. -/
def Obligations.ResetIdempotent : Prop :=
  ∀ s : State, hostReset (hostReset s) = hostReset s ∧
    ((hostReset s).pc = 0 ∧ (hostReset s).ir = 0 ∧ (hostReset s).a = 0 ∧ (hostReset s).b = 0 ∧ (hostReset s).flags = 0 ∧
      (hostReset s).out = 0 ∧ (hostReset s).mar = 0) ∧
    (∀ a, (hostReset s).ramAt a = 0) ∧ (hostReset s).phase = .low ∧ (hostReset s).halt = .high ∧ (hostReset s).t = 0

/-- `loadProgram` copies the words to RAM from address 0 and changes nothing else; too many words fault before any cell is written; a
word outside 0 to 65535 is refused. R44 (decision D20). The case of both errors at once is not stated: it is the model's own
choice (log 11). In a state that has a fault already, the clause for too many words says that the kind is replaced: that too is
the model's own choice (log 12). -/
def Obligations.LoadProgramCopiesWords : Prop :=
  ∀ (words : List Int) (s : State),
    ((∀ v ∈ words, 0 ≤ v ∧ v ≤ 65535) → words.length ≤ s.ramSize →
      ∃ t, hostOp (.loadProgram words) s = .next t ∧ t = { s with ram := t.ram } ∧
        ∀ a, t.ramAt a = match words[a]? with
          | some v => BitVec.ofInt 16 v
          | none => s.ramAt a) ∧
    ((∀ v ∈ words, 0 ≤ v ∧ v ≤ 65535) → s.ramSize < words.length →
      hostOp (.loadProgram words) s = .next { s with fault := some .outOfRange }) ∧
    ((∃ v ∈ words, v < 0 ∨ 65535 < v) → words.length ≤ s.ramSize →
      hostOp (.loadProgram words) s = .refused .wordOutOfRange)

/-- The "highest non-zero address" query: the largest RAM address whose cell is not 0, none when every cell is 0. R34 (decision
D26). -/
def Obligations.HighestNonZeroAddress : Prop :=
  ∀ (s : State) (a : Nat),
    (highestNonZeroAddress s = some a ↔ s.InRam a ∧ s.ramAt a ≠ 0 ∧ ∀ c, a < c → s.InRam c → s.ramAt c = 0) ∧
    (highestNonZeroAddress s = none ↔ ∀ c, s.InRam c → s.ramAt c = 0)

/-- In a final state every `tick(false)` and every step leaves the state as it is; a faulted state is not final. R85 (decision
D29). -/
def Obligations.FinalStateStays : Prop :=
  ∀ s : State,
    (s.Final → (∀ n, ticks n s = s) ∧ step s = .next s) ∧ (s.fault ≠ none → ¬ s.Final)

/-- Resuming after HLT in continuous mode: the first resume runs one tick, which sets HALT again at T = 3, and the run stands still;
the second resume runs on to the end of the cycle, eleven ticks later. R157, R129 (decisions D1, D2, D11, D12). -/
def Obligations.HltResumesAtSecondRequest : Prop :=
  ∀ s : State, s.fault = none → s.HasReferenceFirmware → s.drive = .continuous → s.halt = .high → s.phase = .low →
    s.t = 2 → irOpcode s.ir = s.hltOpcode.value →
    (∀ n, ticks (n + 1) (setHaltInput .low s) = { s with phase := .high, t := 3, cw := 0x0001 }) ∧
    ticks 11 (setHaltInput .low { s with phase := .high, t := 3, cw := 0x0001 }) =
      { s with phase := .low, t := 0, cw := 0x2002, halt := .low }

/-- The instruction step of R84 from the start of a cycle of the reference firmware: under an instruction other than HLT it gives
the state that the instruction's meaning gives in single-step mode; under HLT it stops after the fourth tick, at T = 2
with the HLT word fetched and HALT HIGH. R84, R116, R129 (decisions D1, D2, D28). -/
def Obligations.InstructionStepRunsOneInstruction : Prop :=
  ∀ (s : State) (i : Instr), s.Ready → s.drive = .singleStep → decodeCell s.hltOpcode (s.ramAt s.pc.toNat) = i →
    if i.opcode s.hltOpcode = s.hltOpcode.value then
      instructionStep s = { s with
        mar := s.pc, ir := (s.ramAt s.pc.toNat) &&& 0x00FF, pc := s.pc + 1,
        bus := (s.ramAt s.pc.toNat).setWidth 8, halt := .high, t := 2, cw := 0x0001 }
    else exec i s = .next (instructionStep s)

/-! The instructions. `s.Ready` is the start of an instruction cycle of the reference firmware with ticks running: PHASE LOW, T 0, no
fault, PC in RAM, and HALT LOW or single-step mode (R116). Every statement here rests on the reference firmware (decision
D1), as spec/00_scope.md R5 says, and holds for every HLT opcode (decision D2): an unassigned row whose number HLT takes has
opcode 15 (log 3). -/

/-- NOP and the unassigned opcodes do the fetch and nothing more. R119, R130, R116 (decisions D1, D21). -/
def Obligations.IdleInstructionsOnlyFetch : Prop :=
  ∀ (s : State) (x : Nibble) (i : Instr) (op : Nibble), s.Ready →
    (i, op) ∈ [(Instr.nop x, 0),
      (.unassigned10 x, if s.hltOpcode = .ten then 15 else 10), (.unassigned11 x, if s.hltOpcode = .eleven then 15 else 11),
      (.unassigned12 x, if s.hltOpcode = .twelve then 15 else 12), (.unassigned13 x, if s.hltOpcode = .thirteen then 15 else 13),
      (.unassigned14 x, if s.hltOpcode = .fourteen then 15 else 14)] →
    exec i s = .next { s with
      mar := s.pc, ir := (op ++ x : Byte).setWidth 16, pc := s.pc + 1, bus := op ++ x, cw := 0x2002 }

/-- LDA loads the low byte of the cell its operand names. R120, R116 (decisions D1, D7). -/
def Obligations.LdaLoadsAccumulator : Prop :=
  ∀ (s : State) (n : Nibble), s.Ready → s.InRam n.toNat →
    exec (.lda n) s = .next { s with
      a := (s.ramAt n.toNat).setWidth 8, bus := (s.ramAt n.toNat).setWidth 8,
      mar := n.setWidth 8, ir := (1#4 ++ n : Byte).setWidth 16, pc := s.pc + 1, cw := 0x2002 }

/-- ADD adds the low byte of the cell to A: ZF is the zero of the wrapped sum, CF its carry, and B keeps the addend. R121, R116
(decisions D1, D3, D7). -/
def Obligations.AddAddsAndSetsFlags : Prop :=
  ∀ (s : State) (n : Nibble) (v : Byte), s.Ready → s.InRam n.toNat → v = (s.ramAt n.toNat).setWidth 8 →
    exec (.add n) s = .next { s with
      a := s.a + v, b := v, bus := s.a + v, aluRes := s.a + v,
      aluZ := decide ((s.a.toNat + v.toNat) % 256 = 0), aluC := decide (255 < s.a.toNat + v.toNat),
      flags := packFlags (decide ((s.a.toNat + v.toNat) % 256 = 0)) (decide (255 < s.a.toNat + v.toNat)),
      mar := n.setWidth 8, ir := (2#4 ++ n : Byte).setWidth 16, pc := s.pc + 1, cw := 0x2002 }

/-- SUB subtracts the low byte of the cell from A: ZF = 1 iff they are equal, CF = 1 iff there is no borrow, and B keeps the
subtrahend. R122, R116 (decisions D1, D3, D4, D7). -/
def Obligations.SubSubtractsAndSetsFlags : Prop :=
  ∀ (s : State) (n : Nibble) (v : Byte), s.Ready → s.InRam n.toNat → v = (s.ramAt n.toNat).setWidth 8 →
    exec (.sub n) s = .next { s with
      a := s.a - v, b := v, bus := s.a - v, aluRes := s.a - v,
      aluZ := decide (s.a = v), aluC := decide (v.toNat ≤ s.a.toNat),
      flags := packFlags (decide (s.a = v)) (decide (v.toNat ≤ s.a.toNat)),
      mar := n.setWidth 8, ir := (3#4 ++ n : Byte).setWidth 16, pc := s.pc + 1, cw := 0x2002 }

/-- STA stores A in the cell its operand names, clearing bits 15:8; a fetch of that cell by a later instruction gets the new
word. R123, R116, R52, R155 (decision D1). -/
def Obligations.StaStoresAccumulator : Prop :=
  ∀ (s : State) (n : Nibble), s.Ready → s.InRam n.toNat →
    ∃ t, exec (.sta n) s = .next t ∧
      t = { s with
        ram := t.ram, bus := s.a,
        mar := n.setWidth 8, ir := (4#4 ++ n : Byte).setWidth 16, pc := s.pc + 1, cw := 0x2002 } ∧
      t.ramAt n.toNat = s.a.setWidth 16 ∧ (∀ a, a ≠ n.toNat → t.ramAt a = s.ramAt a) ∧
      (t.pc = n.setWidth 8 → t.nextInstr = some (decode s.hltOpcode s.a))

/-- LDI loads its operand, zero-extended. R124, R116, R59 (decision D1). -/
def Obligations.LdiLoadsImmediate : Prop :=
  ∀ (s : State) (n : Nibble), s.Ready →
    exec (.ldi n) s = .next { s with
      a := n.setWidth 8, bus := n.setWidth 8,
      mar := s.pc, ir := (5#4 ++ n : Byte).setWidth 16, pc := s.pc + 1, cw := 0x2002 }

/-- JMP always jumps, JC iff CF was 1 and JZ iff ZF was 1 when the instruction began: PC takes the operand, an absolute address 0 to
15, and MAR keeps the jump's own address; an untaken jump does the fetch and nothing more. R125, R126, R127, R116 (decisions
D1, D3). -/
def Obligations.JumpsLoadPc : Prop :=
  ∀ (s : State) (n : Nibble) (i : Instr) (op : Nibble) (c : Bool), s.Ready →
    (i, op, c) ∈ [(Instr.jmp n, 6, true), (.jc n, 7, s.flags.getLsbD 0), (.jz n, 8, s.flags.getLsbD 1)] →
    exec i s = .next { s with
      pc := if c then n.setWidth 8 else s.pc + 1
      bus := if c then n.setWidth 8 else op ++ n
      mar := s.pc, ir := (op ++ n : Byte).setWidth 16, cw := 0x2002 }

/-- OUT copies A to OUT. R128, R116 (decision D1). -/
def Obligations.OutCopiesAccumulator : Prop :=
  ∀ (s : State) (x : Nibble), s.Ready →
    exec (.out x) s = .next { s with
      out := s.a, bus := s.a, mar := s.pc, ir := (9#4 ++ x : Byte).setWidth 16, pc := s.pc + 1, cw := 0x2002 }

/-- HLT sets HALT: a continuous run stops at PHASE LOW, T = 2 with the HLT word fetched, and is then final; in single-step mode the
cycle runs to its end. PC stands past the HLT word in both. R129, R116 (decisions D1, D2, D12, D29). -/
def Obligations.HltRequestsHalt : Prop :=
  ∀ (s : State) (x : Nibble), s.Ready →
    ∃ t, exec (.hlt x) s = .next t ∧
      t = { s with
        halt := .high, mar := s.pc, ir := (s.hltOpcode.value ++ x : Byte).setWidth 16, pc := s.pc + 1,
        bus := s.hltOpcode.value ++ x,
        t := match s.drive with
          | .continuous => 2
          | .singleStep => 0
        cw := match s.drive with
          | .continuous => 0x0001
          | .singleStep => 0x2002 } ∧
      (s.drive = .continuous → t.Final)

/-- With PC outside RAM the fetch faults at T1: T0 has put PC in MAR and on the Bus, and nothing else of the instruction happens.
So every instruction and the step itself answer. R117, R133, R38 (decisions D1, D22). -/
def Obligations.FetchOutsideRamFaults : Prop :=
  ∀ (s : State) (i : Instr), s.fault = none → s.AtCycleStart → ¬ s.Frozen → s.HasReferenceFirmware →
    s.ramSize ≤ s.pc.toNat →
    exec i s = .next { s with
      mar := s.pc, bus := s.pc, phase := .high, t := 1, cw := 0x1028, fault := some .outOfRange } ∧
    step s = .next { s with
      mar := s.pc, bus := s.pc, phase := .high, t := 1, cw := 0x1028, fault := some .outOfRange }

/-- LDA, ADD, SUB and STA with an operand outside RAM fault at T3: the fetch is done, MAR and the Bus hold the operand, and nothing
else of the instruction happens. R117, R133, R38 (decisions D1, D22). -/
def Obligations.OperandOutsideRamFaults : Prop :=
  ∀ (s : State) (n : Nibble) (i : Instr) (op : Nibble) (w : ControlWord), s.Ready → s.ramSize ≤ n.toNat →
    (i, op, w) ∈ [(Instr.lda n, 1, 0x0048), (.add n, 2, 0x0408), (.sub n, 3, 0x0408), (.sta n, 4, 0x0084)] →
    exec i s = .next { s with
      mar := n.setWidth 8, bus := n.setWidth 8, ir := (op ++ n : Byte).setWidth 16, pc := s.pc + 1,
      phase := .high, t := 3, cw := w, fault := some .outOfRange }

/-- Where no instruction runs: a frozen continuous run stays as it is under every instruction and every step, and a faulted state
answers the stop engineFaulted with its kind. R65, R30, R133 (decision D22). Those rules say that nothing changes after a fault;
that the model answers a stop there, and not the same state, is the model's own choice (log 9). -/
def Obligations.FrozenAndFaultedStates : Prop :=
  ∀ (s : State) (i : Instr),
    (s.fault = none → s.drive = .continuous → s.halt = .high → exec i s = .next s ∧ step s = .next s) ∧
    ∀ k, s.fault = some k → exec i s = .fault (.engineFaulted k) ∧ step s = .fault (.engineFaulted k)

/-! Frames, at the start of a cycle of the reference firmware (R116: "Every state component an instruction's rule does not name keeps
the value it had after T1"; R118). They hold for every next state `exec` gives there: the cycle run to its end, a frozen run,
and a fault of R117. MAR, IR, PC, the Bus, PHASE, T and CW are written by the fetch of every instruction. -/

/-- NOP, the unassigned opcodes, OUT, HLT, JMP, JC and JZ change no data register but OUT, no flag, no ALU value and no cell of RAM;
of them only OUT changes OUT and only HLT changes HALT. -/
def Obligations.FrameIdleOutputJumpsAndHalt : Prop :=
  ∀ (s t : State) (n : Nibble) (i : Instr), s.AtCycleStart → s.HasReferenceFirmware →
    i ∈ [Instr.nop n, .unassigned10 n, .unassigned11 n, .unassigned12 n, .unassigned13 n, .unassigned14 n, .out n,
      .hlt n, .jmp n, .jc n, .jz n] →
    exec i s = .next t →
    t.a = s.a ∧ t.b = s.b ∧ t.flags = s.flags ∧ (i ≠ .out n → t.out = s.out) ∧
    t.aluRes = s.aluRes ∧ t.aluZ = s.aluZ ∧ t.aluC = s.aluC ∧
    (i ≠ .hlt n → t.halt = s.halt) ∧ t.freq = s.freq ∧ t.drive = s.drive ∧
    t.ramSize = s.ramSize ∧ t.hltOpcode = s.hltOpcode ∧ t.romA = s.romA ∧ t.romB = s.romB ∧ (t.fault = none ∨ t.fault = some .outOfRange) ∧
    ∀ a, t.ramAt a = s.ramAt a

/-- LDA and LDI change A and no other data register, no flag, no ALU value and no cell of RAM. -/
def Obligations.FrameAccumulatorLoads : Prop :=
  ∀ (s t : State) (n : Nibble) (i : Instr), s.AtCycleStart → s.HasReferenceFirmware →
    i ∈ [Instr.lda n, .ldi n] → exec i s = .next t →
    t.b = s.b ∧ t.flags = s.flags ∧ t.out = s.out ∧
    t.aluRes = s.aluRes ∧ t.aluZ = s.aluZ ∧ t.aluC = s.aluC ∧
    t.halt = s.halt ∧ t.freq = s.freq ∧ t.drive = s.drive ∧ t.ramSize = s.ramSize ∧ t.hltOpcode = s.hltOpcode ∧
    t.romA = s.romA ∧ t.romB = s.romB ∧ (t.fault = none ∨ t.fault = some .outOfRange) ∧
    ∀ a, t.ramAt a = s.ramAt a

/-- ADD and SUB change A, B, FLAGS and the ALU's values, and no other data register and no cell of RAM. -/
def Obligations.FrameArithmetic : Prop :=
  ∀ (s t : State) (n : Nibble) (i : Instr), s.AtCycleStart → s.HasReferenceFirmware →
    i ∈ [Instr.add n, .sub n] → exec i s = .next t →
    t.out = s.out ∧
    t.halt = s.halt ∧ t.freq = s.freq ∧ t.drive = s.drive ∧ t.ramSize = s.ramSize ∧ t.hltOpcode = s.hltOpcode ∧
    t.romA = s.romA ∧ t.romB = s.romB ∧ (t.fault = none ∨ t.fault = some .outOfRange) ∧
    ∀ a, t.ramAt a = s.ramAt a

/-- STA changes no data register, no flag and no ALU value, and no cell of RAM but the one its operand names; it changes none at all
when it faults. -/
def Obligations.FrameStore : Prop :=
  ∀ (s t : State) (n : Nibble), s.AtCycleStart → s.HasReferenceFirmware → exec (.sta n) s = .next t →
    t.a = s.a ∧ t.b = s.b ∧ t.flags = s.flags ∧ t.out = s.out ∧
    t.aluRes = s.aluRes ∧ t.aluZ = s.aluZ ∧ t.aluC = s.aluC ∧
    t.halt = s.halt ∧ t.freq = s.freq ∧ t.drive = s.drive ∧ t.ramSize = s.ramSize ∧ t.hltOpcode = s.hltOpcode ∧
    t.romA = s.romA ∧ t.romB = s.romB ∧ (t.fault = none ∨ t.fault = some .outOfRange) ∧
    (∀ a, a ≠ n.toNat → t.ramAt a = s.ramAt a) ∧
    (t.fault = some .outOfRange → ∀ a, t.ramAt a = s.ramAt a)

/-! The machine. -/

/-- A step at the start of a cycle is the meaning of the instruction that the cell at PC decodes to; anywhere else it goes on with the
cycle in progress, tick by tick, and answers the fault after one (log 8). R16, R58, R116. -/
def Obligations.StepRunsDecodedInstruction : Prop :=
  (∀ (s : State) (i : Instr), s.AtCycleStart → s.InRam s.pc.toNat → decodeCell s.hltOpcode (s.ramAt s.pc.toNat) = i →
    step s = exec i s) ∧
  ∀ s : State, ¬ (s.AtCycleStart ∧ s.InRam s.pc.toNat) → step s = resume s

/-- The instruction level refines the tick level: from every state without a fault, whatever the firmware and wherever in a cycle,
a step gives the state that the ticks give when the host drives them to the next boundary. R10, R64, R116 (log 8). -/
def Obligations.StepRefinesTicks : Prop :=
  ∀ s : State, s.fault = none → step s = .next (ticksToBoundary 16 s)

/-- Every step keeps the invariant: canonical memories, IR's upper byte 0, a positive frequency, and no recorded FatalStartup. R17, R28,
R29, R35, R39, R132 (log 1). -/
def Obligations.StepKeepsWellFormedState : Prop :=
  ∀ s t : State, s.Inv → step s = .next t → t.Inv

/-- Every host operation, and every instruction, keeps the invariant. R17, R28, R29, R35, R39, R132 (log 1). -/
def Obligations.HostOperationsKeepWellFormedState : Prop :=
  (∀ (op : HostOp) (s t : State), s.Inv → hostOp op s = .next t → t.Inv) ∧
  ∀ (i : Instr) (s t : State), s.Inv → exec i s = .next t → t.Inv

/-- The state after reset meets the invariant, has no fault and holds the reference firmware. R32, R148 (decisions D1, D27; logs 1,
2, 3, 5). -/
def Obligations.ResetStateWellFormed : Prop :=
  State.reset.Inv ∧ State.reset.fault = none ∧ State.reset.HasReferenceFirmware

/-- With 256 cells of RAM or more, nothing faults under the reference firmware: no tick, no instruction and no step. R117 (decision
D1). -/
def Obligations.ReferenceFirmwareNeverFaults : Prop :=
  ∀ s : State, s.fault = none → s.HasReferenceFirmware → 256 ≤ s.ramSize →
    (∀ b : Bool, (tick b s).fault = none) ∧
    (∀ (i : Instr), ∃ t, exec i s = .next t ∧ t.fault = none) ∧
    ∃ t, step s = .next t ∧ t.fault = none

/-- No tick, no instruction and no step changes a cell of RAM at address 256 or above, under any firmware: MAR and PC are 8 bits wide.
R36 (decisions D8, D9). -/
def Obligations.DatapathKeepsUpperRam : Prop :=
  ∀ (s : State) (a : Nat), 256 ≤ a →
    (∀ b : Bool, (tick b s).ramAt a = s.ramAt a) ∧
    (∀ (i : Instr) (t : State), exec i s = .next t → t.ramAt a = s.ramAt a) ∧
    ∀ t : State, step s = .next t → t.ramAt a = s.ramAt a
end

