-- ==== Sys2Proof/Laws/PerInstr.lean ====
section
/-! SUPPORT. Laws/PerInstr.lean: a law of every instruction as syntax: its word holds its opcode in bits 7:4 and its operand
in bits 3:0 (spec/30_encoding.md R58, R60). -/

namespace Sys2Proof.Laws.WordFields

/-- The fields of the instruction's word are its opcode and its operand, whatever the HLT opcode. -/
def Statement (i : Instr) : Prop :=
  ∀ h : HltOpcode, opcodeField (encode h i) = i.opcode h ∧ operandField (encode h i) = i.operand

theorem fields_of_append (o n : Nibble) : opcodeField (o ++ n) = o ∧ operandField (o ++ n) = n := by
  revert o n
  decide

theorem nop (x : Nibble) : Statement (.nop x) := fun _ => fields_of_append _ _
theorem lda (n : Nibble) : Statement (.lda n) := fun _ => fields_of_append _ _
theorem add (n : Nibble) : Statement (.add n) := fun _ => fields_of_append _ _
theorem sub (n : Nibble) : Statement (.sub n) := fun _ => fields_of_append _ _
theorem sta (n : Nibble) : Statement (.sta n) := fun _ => fields_of_append _ _
theorem ldi (n : Nibble) : Statement (.ldi n) := fun _ => fields_of_append _ _
theorem jmp (n : Nibble) : Statement (.jmp n) := fun _ => fields_of_append _ _
theorem jc (n : Nibble) : Statement (.jc n) := fun _ => fields_of_append _ _
theorem jz (n : Nibble) : Statement (.jz n) := fun _ => fields_of_append _ _
theorem out (x : Nibble) : Statement (.out x) := fun _ => fields_of_append _ _
theorem unassigned10 (x : Nibble) : Statement (.unassigned10 x) := fun _ => fields_of_append _ _
theorem unassigned11 (x : Nibble) : Statement (.unassigned11 x) := fun _ => fields_of_append _ _
theorem unassigned12 (x : Nibble) : Statement (.unassigned12 x) := fun _ => fields_of_append _ _
theorem unassigned13 (x : Nibble) : Statement (.unassigned13 x) := fun _ => fields_of_append _ _
theorem unassigned14 (x : Nibble) : Statement (.unassigned14 x) := fun _ => fields_of_append _ _
theorem hlt (x : Nibble) : Statement (.hlt x) := fun _ => fields_of_append _ _

end Sys2Proof.Laws.WordFields
end

