-- ==== Sys2Proof/Laws/Decode.lean ====
section
/-! SUPPORT. Laws/Decode.lean: an instruction word in a RAM cell and in IR. -/

namespace Sys2Proof.Machine

theorem lowByte_eq_setWidth (v : Word) : lowByte v = v.setWidth 8 := by
  apply BitVec.eq_of_getLsbD_eq
  intro i hi
  simp [lowByte, hi]

theorem lowByte_setWidth : ∀ w : Byte, lowByte (w.setWidth 16) = w := by decide

theorem irOpcode_setWidth : ∀ w : Byte, irOpcode (w.setWidth 16) = opcodeField w := by decide

theorem irOperand_setWidth : ∀ w : Byte, irOperand (w.setWidth 16) = operandField w := by decide

/-- IR holding an instruction's word shows its opcode. -/
@[simp] theorem irOpcode_encode (h : HltOpcode) (i : Instr) : irOpcode ((encode h i).setWidth 16) = i.opcode h := by
  rw [irOpcode_setWidth]
  exact (Laws.WordFields.fields_of_append _ _).1

/-- IR holding an instruction's word shows its operand. -/
@[simp] theorem irOperand_encode (h : HltOpcode) (i : Instr) : irOperand ((encode h i).setWidth 16) = i.operand := by
  rw [irOperand_setWidth]
  exact (Laws.WordFields.fields_of_append _ _).2

end Sys2Proof.Machine
end

