-- ==== Sys2Proof/Laws/Memory.lean ====
section
/-! SUPPORT. Laws/Memory.lean: a read after a write, and the canonical form, for every memory operation. -/

namespace Sys2Proof.Machine

variable {w : Nat}

@[simp] theorem Mem.read_nil (a : Nat) : Mem.read ([] : Mem w) a = 0 := rfl

theorem Mem.read_clear (m : Mem w) (a b : Nat) : (m.clear a).read b = if b = a then 0 else m.read b := by
  induction m with
  | nil => simp [Mem.clear]
  | cons c m ih =>
    obtain ⟨d, u⟩ := c
    by_cases hd : d = a <;> by_cases hb : d = b <;> simp_all [Mem.clear, Mem.read]

theorem Mem.read_insert_ne (m : Mem w) {a b : Nat} (v : BitVec w) (h : b ≠ a) :
    Mem.read (Mem.insert m a v) b = Mem.read m b := by
  induction m with
  | nil => simp [Mem.insert, Mem.read, h.symm]
  | cons c m ih =>
    obtain ⟨d, u⟩ := c
    unfold Mem.insert
    split
    · simp [Mem.read, h.symm]
    · simp only [Mem.read, ih]

theorem Mem.read_insert_self (m : Mem w) (a : Nat) (v : BitVec w) (h : ¬ ∃ c ∈ m, c.1 = a) :
    Mem.read (Mem.insert m a v) a = v := by
  induction m with
  | nil => simp [Mem.insert, Mem.read]
  | cons c m ih =>
    obtain ⟨d, u⟩ := c
    have hd : d ≠ a := fun e => h ⟨(d, u), by simp, e⟩
    unfold Mem.insert
    split
    · simp [Mem.read]
    · rw [Mem.read, if_neg hd]
      exact ih fun ⟨c, hc, e⟩ => h ⟨c, by simp [hc], e⟩

/-- No entry of a cleared memory is at the cleared address. -/
theorem Mem.not_mem_clear (m : Mem w) (a : Nat) : ¬ ∃ c ∈ m.clear a, c.1 = a := by
  induction m with
  | nil => simp [Mem.clear]
  | cons c m ih =>
    obtain ⟨d, u⟩ := c
    by_cases hd : d = a
    · simpa [Mem.clear, hd] using ih
    · simpa [Mem.clear, hd] using ih

/-- A read after a write: the written cell holds the value, every other cell is as before; for every list of cells. -/
@[simp] theorem Mem.read_write (m : Mem w) (a b : Nat) (v : BitVec w) :
    (m.write a v).read b = if b = a then v else m.read b := by
  unfold Mem.write
  split
  · rename_i hv
    rw [Mem.read_clear, hv]
  · by_cases h : b = a
    · subst h
      rw [Mem.read_insert_self _ _ _ (Mem.not_mem_clear m b), if_pos rfl]
    · rw [Mem.read_insert_ne _ _ h, Mem.read_clear, if_neg h, if_neg h]

theorem Mem.read_writeAll (vs : List (BitVec w)) (m : Mem w) (a b : Nat) :
    (m.writeAll a vs).read b = if a ≤ b ∧ b < a + vs.length then vs.getD (b - a) 0 else m.read b := by
  induction vs generalizing m a with
  | nil => simp [Mem.writeAll]
  | cons v vs ih =>
    rw [Mem.writeAll, ih, Mem.read_write]
    by_cases h1 : b = a
    · subst h1; simp
    · by_cases h2 : a + 1 ≤ b ∧ b < a + 1 + vs.length
      · obtain ⟨k, hk⟩ : ∃ k, b - a = k + 1 := ⟨b - a - 1, by omega⟩
        have hk' : b - (a + 1) = k := by omega
        rw [if_pos h2, if_pos (by simp; omega), hk, hk']
        simp
      · rw [if_neg h2, if_neg h1, if_neg (by simp; omega)]

theorem Mem.read_tabulate (f : Nat → BitVec w) (n a b : Nat) :
    (Mem.tabulate f a n).read b = if a ≤ b ∧ b < a + n then f b else 0 := by
  induction n generalizing a with
  | zero => rw [if_neg (by omega)]; rfl
  | succ n ih =>
    have hcase : (if a + 1 ≤ b ∧ b < a + 1 + n then f b else (0 : BitVec w)) =
        if a = b then (0 : BitVec w) else if a ≤ b ∧ b < a + (n + 1) then f b else 0 := by
      by_cases h : a = b
      · rw [if_pos h, if_neg (by omega)]
      · rw [if_neg h]
        by_cases h2 : a ≤ b ∧ b < a + (n + 1)
        · rw [if_pos h2, if_pos (by omega)]
        · rw [if_neg h2, if_neg (by omega)]
    unfold Mem.tabulate
    split
    · rename_i h0
      rw [ih, hcase]
      split
      · rename_i h; subst h; simp [h0]
      · rfl
    · rw [Mem.read, ih, hcase]
      split
      · rename_i h; subst h; simp
      · rfl

theorem Mem.wfFrom_mono {size lo lo' : Nat} {m : Mem w} (h : lo' ≤ lo) (hm : Mem.wfFrom size lo m = true) :
    Mem.wfFrom size lo' m = true := by
  cases m with
  | nil => rfl
  | cons c m =>
    obtain ⟨a, v⟩ := c
    simp only [Mem.wfFrom, Bool.and_eq_true, decide_eq_true_eq] at hm ⊢
    exact ⟨⟨by omega, hm.1.2⟩, hm.2⟩

theorem Mem.wfFrom_clear {size lo : Nat} {m : Mem w} (a : Nat) (hm : Mem.wfFrom size lo m = true) :
    Mem.wfFrom size lo (m.clear a) = true := by
  induction m generalizing lo with
  | nil => rfl
  | cons c m ih =>
    obtain ⟨d, u⟩ := c
    simp only [Mem.wfFrom, Bool.and_eq_true, decide_eq_true_eq] at hm
    by_cases hd : d = a
    · simpa [Mem.clear, hd] using Mem.wfFrom_mono (by omega) (ih hm.2)
    · simp only [Mem.clear, hd, if_false, Mem.wfFrom, Bool.and_eq_true, decide_eq_true_eq]
      exact ⟨hm.1, ih hm.2⟩

theorem Mem.wfFrom_insert {size lo a : Nat} {m : Mem w} {v : BitVec w} (hm : Mem.wfFrom size lo m = true)
    (hlo : lo ≤ a) (ha : a < size) (hv : v ≠ 0) (hfree : ¬ ∃ c ∈ m, c.1 = a) :
    Mem.wfFrom size lo (m.insert a v) = true := by
  induction m generalizing lo with
  | nil => simp [Mem.insert, Mem.wfFrom, hlo, ha]; exact hv
  | cons c m ih =>
    obtain ⟨d, u⟩ := c
    have hda : d ≠ a := fun e => hfree ⟨(d, u), by simp, e⟩
    simp only [Mem.wfFrom, Bool.and_eq_true, decide_eq_true_eq] at hm
    unfold Mem.insert
    split
    · simp only [Mem.wfFrom, Bool.and_eq_true, decide_eq_true_eq]
      exact ⟨⟨hlo, ha, hv⟩, ⟨by omega, hm.1.2⟩, hm.2⟩
    · simp only [Mem.wfFrom, Bool.and_eq_true, decide_eq_true_eq]
      refine ⟨hm.1, ih hm.2 (by omega) fun ⟨c, hc, e⟩ => hfree ⟨c, by simp [hc], e⟩⟩

/-- A write inside the array keeps the canonical form. -/
theorem Mem.wf_write {size : Nat} {m : Mem w} {a : Nat} (v : BitVec w) (hm : Mem.wf size m = true) (ha : a < size) :
    Mem.wf size (m.write a v) = true := by
  unfold Mem.write
  split
  · exact Mem.wfFrom_clear a hm
  · rename_i hv
    exact Mem.wfFrom_insert (Mem.wfFrom_clear a hm) (Nat.zero_le a) ha hv (Mem.not_mem_clear m a)

/-- Copying a program that fits keeps the canonical form. -/
theorem Mem.wf_writeAll {size : Nat} (vs : List (BitVec w)) {m : Mem w} {a : Nat} (hm : Mem.wf size m = true)
    (ha : a + vs.length ≤ size) : Mem.wf size (m.writeAll a vs) = true := by
  induction vs generalizing m a with
  | nil => exact hm
  | cons v vs ih =>
    simp only [List.length_cons] at ha
    exact ih (Mem.wf_write v hm (by omega)) (by omega)

theorem Mem.wfFrom_tabulate (f : Nat → BitVec w) (size n a : Nat) (h : a + n ≤ size) :
    Mem.wfFrom size a (Mem.tabulate f a n) = true := by
  induction n generalizing a with
  | zero => rfl
  | succ n ih =>
    unfold Mem.tabulate
    split
    · exact Mem.wfFrom_mono (by omega) (ih (a + 1) (by omega))
    · rename_i h0
      simp only [Mem.wfFrom, Bool.and_eq_true, decide_eq_true_eq]
      exact ⟨⟨Nat.le_refl a, by omega, h0⟩, ih (a + 1) (by omega)⟩

/-- A tabulated array is in canonical form. -/
theorem Mem.wf_tabulate (f : Nat → BitVec w) (n : Nat) : Mem.wf n (Mem.tabulate f 0 n) = true :=
  Mem.wfFrom_tabulate f n n 0 (by omega)

/-- An array with no entry is in canonical form. -/
@[simp] theorem Mem.wf_nil (size : Nat) : Mem.wf size ([] : Mem w) = true := rfl

end Sys2Proof.Machine
end

