-- ==== Sys2Proof/Laws/State.lean ====
section
/-! SUPPORT. Laws/State.lean: what each named update of the state does to each field, one lemma a field, so that no later
proof unfolds a record update. -/

namespace Sys2Proof.Machine

variable (s : State)

@[simp] theorem State.setMar_phase (v : Byte) : (s.setMar v).phase = s.phase := rfl
@[simp] theorem State.setMar_halt (v : Byte) : (s.setMar v).halt = s.halt := rfl
@[simp] theorem State.setMar_freq (v : Byte) : (s.setMar v).freq = s.freq := rfl
@[simp] theorem State.setMar_t (v : Byte) : (s.setMar v).t = s.t := rfl
@[simp] theorem State.setMar_cw (v : Byte) : (s.setMar v).cw = s.cw := rfl
@[simp] theorem State.setMar_bus (v : Byte) : (s.setMar v).bus = s.bus := rfl
@[simp] theorem State.setMar_pc (v : Byte) : (s.setMar v).pc = s.pc := rfl
@[simp] theorem State.setMar_ir (v : Byte) : (s.setMar v).ir = s.ir := rfl
@[simp] theorem State.setMar_a (v : Byte) : (s.setMar v).a = s.a := rfl
@[simp] theorem State.setMar_b (v : Byte) : (s.setMar v).b = s.b := rfl
@[simp] theorem State.setMar_flags (v : Byte) : (s.setMar v).flags = s.flags := rfl
@[simp] theorem State.setMar_out (v : Byte) : (s.setMar v).out = s.out := rfl
@[simp] theorem State.setMar_mar (v : Byte) : (s.setMar v).mar = v := rfl
@[simp] theorem State.setMar_aluRes (v : Byte) : (s.setMar v).aluRes = s.aluRes := rfl
@[simp] theorem State.setMar_aluZ (v : Byte) : (s.setMar v).aluZ = s.aluZ := rfl
@[simp] theorem State.setMar_aluC (v : Byte) : (s.setMar v).aluC = s.aluC := rfl
@[simp] theorem State.setMar_ram (v : Byte) : (s.setMar v).ram = s.ram := rfl
@[simp] theorem State.setMar_ramSize (v : Byte) : (s.setMar v).ramSize = s.ramSize := rfl
@[simp] theorem State.setMar_hltOpcode (v : Byte) : (s.setMar v).hltOpcode = s.hltOpcode := rfl
@[simp] theorem State.setMar_romA (v : Byte) : (s.setMar v).romA = s.romA := rfl
@[simp] theorem State.setMar_romB (v : Byte) : (s.setMar v).romB = s.romB := rfl
@[simp] theorem State.setMar_fault (v : Byte) : (s.setMar v).fault = s.fault := rfl
@[simp] theorem State.setMar_drive (v : Byte) : (s.setMar v).drive = s.drive := rfl

@[simp] theorem State.setBus_phase (v : Byte) : (s.setBus v).phase = s.phase := rfl
@[simp] theorem State.setBus_halt (v : Byte) : (s.setBus v).halt = s.halt := rfl
@[simp] theorem State.setBus_freq (v : Byte) : (s.setBus v).freq = s.freq := rfl
@[simp] theorem State.setBus_t (v : Byte) : (s.setBus v).t = s.t := rfl
@[simp] theorem State.setBus_cw (v : Byte) : (s.setBus v).cw = s.cw := rfl
@[simp] theorem State.setBus_bus (v : Byte) : (s.setBus v).bus = v := rfl
@[simp] theorem State.setBus_pc (v : Byte) : (s.setBus v).pc = s.pc := rfl
@[simp] theorem State.setBus_ir (v : Byte) : (s.setBus v).ir = s.ir := rfl
@[simp] theorem State.setBus_a (v : Byte) : (s.setBus v).a = s.a := rfl
@[simp] theorem State.setBus_b (v : Byte) : (s.setBus v).b = s.b := rfl
@[simp] theorem State.setBus_flags (v : Byte) : (s.setBus v).flags = s.flags := rfl
@[simp] theorem State.setBus_out (v : Byte) : (s.setBus v).out = s.out := rfl
@[simp] theorem State.setBus_mar (v : Byte) : (s.setBus v).mar = s.mar := rfl
@[simp] theorem State.setBus_aluRes (v : Byte) : (s.setBus v).aluRes = s.aluRes := rfl
@[simp] theorem State.setBus_aluZ (v : Byte) : (s.setBus v).aluZ = s.aluZ := rfl
@[simp] theorem State.setBus_aluC (v : Byte) : (s.setBus v).aluC = s.aluC := rfl
@[simp] theorem State.setBus_ram (v : Byte) : (s.setBus v).ram = s.ram := rfl
@[simp] theorem State.setBus_ramSize (v : Byte) : (s.setBus v).ramSize = s.ramSize := rfl
@[simp] theorem State.setBus_hltOpcode (v : Byte) : (s.setBus v).hltOpcode = s.hltOpcode := rfl
@[simp] theorem State.setBus_romA (v : Byte) : (s.setBus v).romA = s.romA := rfl
@[simp] theorem State.setBus_romB (v : Byte) : (s.setBus v).romB = s.romB := rfl
@[simp] theorem State.setBus_fault (v : Byte) : (s.setBus v).fault = s.fault := rfl
@[simp] theorem State.setBus_drive (v : Byte) : (s.setBus v).drive = s.drive := rfl

@[simp] theorem State.setA_phase (v : Byte) : (s.setA v).phase = s.phase := rfl
@[simp] theorem State.setA_halt (v : Byte) : (s.setA v).halt = s.halt := rfl
@[simp] theorem State.setA_freq (v : Byte) : (s.setA v).freq = s.freq := rfl
@[simp] theorem State.setA_t (v : Byte) : (s.setA v).t = s.t := rfl
@[simp] theorem State.setA_cw (v : Byte) : (s.setA v).cw = s.cw := rfl
@[simp] theorem State.setA_bus (v : Byte) : (s.setA v).bus = s.bus := rfl
@[simp] theorem State.setA_pc (v : Byte) : (s.setA v).pc = s.pc := rfl
@[simp] theorem State.setA_ir (v : Byte) : (s.setA v).ir = s.ir := rfl
@[simp] theorem State.setA_a (v : Byte) : (s.setA v).a = v := rfl
@[simp] theorem State.setA_b (v : Byte) : (s.setA v).b = s.b := rfl
@[simp] theorem State.setA_flags (v : Byte) : (s.setA v).flags = s.flags := rfl
@[simp] theorem State.setA_out (v : Byte) : (s.setA v).out = s.out := rfl
@[simp] theorem State.setA_mar (v : Byte) : (s.setA v).mar = s.mar := rfl
@[simp] theorem State.setA_aluRes (v : Byte) : (s.setA v).aluRes = s.aluRes := rfl
@[simp] theorem State.setA_aluZ (v : Byte) : (s.setA v).aluZ = s.aluZ := rfl
@[simp] theorem State.setA_aluC (v : Byte) : (s.setA v).aluC = s.aluC := rfl
@[simp] theorem State.setA_ram (v : Byte) : (s.setA v).ram = s.ram := rfl
@[simp] theorem State.setA_ramSize (v : Byte) : (s.setA v).ramSize = s.ramSize := rfl
@[simp] theorem State.setA_hltOpcode (v : Byte) : (s.setA v).hltOpcode = s.hltOpcode := rfl
@[simp] theorem State.setA_romA (v : Byte) : (s.setA v).romA = s.romA := rfl
@[simp] theorem State.setA_romB (v : Byte) : (s.setA v).romB = s.romB := rfl
@[simp] theorem State.setA_fault (v : Byte) : (s.setA v).fault = s.fault := rfl
@[simp] theorem State.setA_drive (v : Byte) : (s.setA v).drive = s.drive := rfl

@[simp] theorem State.setB_phase (v : Byte) : (s.setB v).phase = s.phase := rfl
@[simp] theorem State.setB_halt (v : Byte) : (s.setB v).halt = s.halt := rfl
@[simp] theorem State.setB_freq (v : Byte) : (s.setB v).freq = s.freq := rfl
@[simp] theorem State.setB_t (v : Byte) : (s.setB v).t = s.t := rfl
@[simp] theorem State.setB_cw (v : Byte) : (s.setB v).cw = s.cw := rfl
@[simp] theorem State.setB_bus (v : Byte) : (s.setB v).bus = s.bus := rfl
@[simp] theorem State.setB_pc (v : Byte) : (s.setB v).pc = s.pc := rfl
@[simp] theorem State.setB_ir (v : Byte) : (s.setB v).ir = s.ir := rfl
@[simp] theorem State.setB_a (v : Byte) : (s.setB v).a = s.a := rfl
@[simp] theorem State.setB_b (v : Byte) : (s.setB v).b = v := rfl
@[simp] theorem State.setB_flags (v : Byte) : (s.setB v).flags = s.flags := rfl
@[simp] theorem State.setB_out (v : Byte) : (s.setB v).out = s.out := rfl
@[simp] theorem State.setB_mar (v : Byte) : (s.setB v).mar = s.mar := rfl
@[simp] theorem State.setB_aluRes (v : Byte) : (s.setB v).aluRes = s.aluRes := rfl
@[simp] theorem State.setB_aluZ (v : Byte) : (s.setB v).aluZ = s.aluZ := rfl
@[simp] theorem State.setB_aluC (v : Byte) : (s.setB v).aluC = s.aluC := rfl
@[simp] theorem State.setB_ram (v : Byte) : (s.setB v).ram = s.ram := rfl
@[simp] theorem State.setB_ramSize (v : Byte) : (s.setB v).ramSize = s.ramSize := rfl
@[simp] theorem State.setB_hltOpcode (v : Byte) : (s.setB v).hltOpcode = s.hltOpcode := rfl
@[simp] theorem State.setB_romA (v : Byte) : (s.setB v).romA = s.romA := rfl
@[simp] theorem State.setB_romB (v : Byte) : (s.setB v).romB = s.romB := rfl
@[simp] theorem State.setB_fault (v : Byte) : (s.setB v).fault = s.fault := rfl
@[simp] theorem State.setB_drive (v : Byte) : (s.setB v).drive = s.drive := rfl

@[simp] theorem State.setOut_phase (v : Byte) : (s.setOut v).phase = s.phase := rfl
@[simp] theorem State.setOut_halt (v : Byte) : (s.setOut v).halt = s.halt := rfl
@[simp] theorem State.setOut_freq (v : Byte) : (s.setOut v).freq = s.freq := rfl
@[simp] theorem State.setOut_t (v : Byte) : (s.setOut v).t = s.t := rfl
@[simp] theorem State.setOut_cw (v : Byte) : (s.setOut v).cw = s.cw := rfl
@[simp] theorem State.setOut_bus (v : Byte) : (s.setOut v).bus = s.bus := rfl
@[simp] theorem State.setOut_pc (v : Byte) : (s.setOut v).pc = s.pc := rfl
@[simp] theorem State.setOut_ir (v : Byte) : (s.setOut v).ir = s.ir := rfl
@[simp] theorem State.setOut_a (v : Byte) : (s.setOut v).a = s.a := rfl
@[simp] theorem State.setOut_b (v : Byte) : (s.setOut v).b = s.b := rfl
@[simp] theorem State.setOut_flags (v : Byte) : (s.setOut v).flags = s.flags := rfl
@[simp] theorem State.setOut_out (v : Byte) : (s.setOut v).out = v := rfl
@[simp] theorem State.setOut_mar (v : Byte) : (s.setOut v).mar = s.mar := rfl
@[simp] theorem State.setOut_aluRes (v : Byte) : (s.setOut v).aluRes = s.aluRes := rfl
@[simp] theorem State.setOut_aluZ (v : Byte) : (s.setOut v).aluZ = s.aluZ := rfl
@[simp] theorem State.setOut_aluC (v : Byte) : (s.setOut v).aluC = s.aluC := rfl
@[simp] theorem State.setOut_ram (v : Byte) : (s.setOut v).ram = s.ram := rfl
@[simp] theorem State.setOut_ramSize (v : Byte) : (s.setOut v).ramSize = s.ramSize := rfl
@[simp] theorem State.setOut_hltOpcode (v : Byte) : (s.setOut v).hltOpcode = s.hltOpcode := rfl
@[simp] theorem State.setOut_romA (v : Byte) : (s.setOut v).romA = s.romA := rfl
@[simp] theorem State.setOut_romB (v : Byte) : (s.setOut v).romB = s.romB := rfl
@[simp] theorem State.setOut_fault (v : Byte) : (s.setOut v).fault = s.fault := rfl
@[simp] theorem State.setOut_drive (v : Byte) : (s.setOut v).drive = s.drive := rfl

@[simp] theorem State.setPc_phase (v : Byte) : (s.setPc v).phase = s.phase := rfl
@[simp] theorem State.setPc_halt (v : Byte) : (s.setPc v).halt = s.halt := rfl
@[simp] theorem State.setPc_freq (v : Byte) : (s.setPc v).freq = s.freq := rfl
@[simp] theorem State.setPc_t (v : Byte) : (s.setPc v).t = s.t := rfl
@[simp] theorem State.setPc_cw (v : Byte) : (s.setPc v).cw = s.cw := rfl
@[simp] theorem State.setPc_bus (v : Byte) : (s.setPc v).bus = s.bus := rfl
@[simp] theorem State.setPc_pc (v : Byte) : (s.setPc v).pc = v := rfl
@[simp] theorem State.setPc_ir (v : Byte) : (s.setPc v).ir = s.ir := rfl
@[simp] theorem State.setPc_a (v : Byte) : (s.setPc v).a = s.a := rfl
@[simp] theorem State.setPc_b (v : Byte) : (s.setPc v).b = s.b := rfl
@[simp] theorem State.setPc_flags (v : Byte) : (s.setPc v).flags = s.flags := rfl
@[simp] theorem State.setPc_out (v : Byte) : (s.setPc v).out = s.out := rfl
@[simp] theorem State.setPc_mar (v : Byte) : (s.setPc v).mar = s.mar := rfl
@[simp] theorem State.setPc_aluRes (v : Byte) : (s.setPc v).aluRes = s.aluRes := rfl
@[simp] theorem State.setPc_aluZ (v : Byte) : (s.setPc v).aluZ = s.aluZ := rfl
@[simp] theorem State.setPc_aluC (v : Byte) : (s.setPc v).aluC = s.aluC := rfl
@[simp] theorem State.setPc_ram (v : Byte) : (s.setPc v).ram = s.ram := rfl
@[simp] theorem State.setPc_ramSize (v : Byte) : (s.setPc v).ramSize = s.ramSize := rfl
@[simp] theorem State.setPc_hltOpcode (v : Byte) : (s.setPc v).hltOpcode = s.hltOpcode := rfl
@[simp] theorem State.setPc_romA (v : Byte) : (s.setPc v).romA = s.romA := rfl
@[simp] theorem State.setPc_romB (v : Byte) : (s.setPc v).romB = s.romB := rfl
@[simp] theorem State.setPc_fault (v : Byte) : (s.setPc v).fault = s.fault := rfl
@[simp] theorem State.setPc_drive (v : Byte) : (s.setPc v).drive = s.drive := rfl

@[simp] theorem State.setHalt_phase (v : Level) : (s.setHalt v).phase = s.phase := rfl
@[simp] theorem State.setHalt_halt (v : Level) : (s.setHalt v).halt = v := rfl
@[simp] theorem State.setHalt_freq (v : Level) : (s.setHalt v).freq = s.freq := rfl
@[simp] theorem State.setHalt_t (v : Level) : (s.setHalt v).t = s.t := rfl
@[simp] theorem State.setHalt_cw (v : Level) : (s.setHalt v).cw = s.cw := rfl
@[simp] theorem State.setHalt_bus (v : Level) : (s.setHalt v).bus = s.bus := rfl
@[simp] theorem State.setHalt_pc (v : Level) : (s.setHalt v).pc = s.pc := rfl
@[simp] theorem State.setHalt_ir (v : Level) : (s.setHalt v).ir = s.ir := rfl
@[simp] theorem State.setHalt_a (v : Level) : (s.setHalt v).a = s.a := rfl
@[simp] theorem State.setHalt_b (v : Level) : (s.setHalt v).b = s.b := rfl
@[simp] theorem State.setHalt_flags (v : Level) : (s.setHalt v).flags = s.flags := rfl
@[simp] theorem State.setHalt_out (v : Level) : (s.setHalt v).out = s.out := rfl
@[simp] theorem State.setHalt_mar (v : Level) : (s.setHalt v).mar = s.mar := rfl
@[simp] theorem State.setHalt_aluRes (v : Level) : (s.setHalt v).aluRes = s.aluRes := rfl
@[simp] theorem State.setHalt_aluZ (v : Level) : (s.setHalt v).aluZ = s.aluZ := rfl
@[simp] theorem State.setHalt_aluC (v : Level) : (s.setHalt v).aluC = s.aluC := rfl
@[simp] theorem State.setHalt_ram (v : Level) : (s.setHalt v).ram = s.ram := rfl
@[simp] theorem State.setHalt_ramSize (v : Level) : (s.setHalt v).ramSize = s.ramSize := rfl
@[simp] theorem State.setHalt_hltOpcode (v : Level) : (s.setHalt v).hltOpcode = s.hltOpcode := rfl
@[simp] theorem State.setHalt_romA (v : Level) : (s.setHalt v).romA = s.romA := rfl
@[simp] theorem State.setHalt_romB (v : Level) : (s.setHalt v).romB = s.romB := rfl
@[simp] theorem State.setHalt_fault (v : Level) : (s.setHalt v).fault = s.fault := rfl
@[simp] theorem State.setHalt_drive (v : Level) : (s.setHalt v).drive = s.drive := rfl

@[simp] theorem State.setAlu_phase (r : AluOut) : (s.setAlu r).phase = s.phase := rfl
@[simp] theorem State.setAlu_halt (r : AluOut) : (s.setAlu r).halt = s.halt := rfl
@[simp] theorem State.setAlu_freq (r : AluOut) : (s.setAlu r).freq = s.freq := rfl
@[simp] theorem State.setAlu_t (r : AluOut) : (s.setAlu r).t = s.t := rfl
@[simp] theorem State.setAlu_cw (r : AluOut) : (s.setAlu r).cw = s.cw := rfl
@[simp] theorem State.setAlu_bus (r : AluOut) : (s.setAlu r).bus = s.bus := rfl
@[simp] theorem State.setAlu_pc (r : AluOut) : (s.setAlu r).pc = s.pc := rfl
@[simp] theorem State.setAlu_ir (r : AluOut) : (s.setAlu r).ir = s.ir := rfl
@[simp] theorem State.setAlu_a (r : AluOut) : (s.setAlu r).a = s.a := rfl
@[simp] theorem State.setAlu_b (r : AluOut) : (s.setAlu r).b = s.b := rfl
@[simp] theorem State.setAlu_flags (r : AluOut) : (s.setAlu r).flags = s.flags := rfl
@[simp] theorem State.setAlu_out (r : AluOut) : (s.setAlu r).out = s.out := rfl
@[simp] theorem State.setAlu_mar (r : AluOut) : (s.setAlu r).mar = s.mar := rfl
@[simp] theorem State.setAlu_aluRes (r : AluOut) : (s.setAlu r).aluRes = r.res := rfl
@[simp] theorem State.setAlu_aluZ (r : AluOut) : (s.setAlu r).aluZ = r.z := rfl
@[simp] theorem State.setAlu_aluC (r : AluOut) : (s.setAlu r).aluC = r.c := rfl
@[simp] theorem State.setAlu_ram (r : AluOut) : (s.setAlu r).ram = s.ram := rfl
@[simp] theorem State.setAlu_ramSize (r : AluOut) : (s.setAlu r).ramSize = s.ramSize := rfl
@[simp] theorem State.setAlu_hltOpcode (r : AluOut) : (s.setAlu r).hltOpcode = s.hltOpcode := rfl
@[simp] theorem State.setAlu_romA (r : AluOut) : (s.setAlu r).romA = s.romA := rfl
@[simp] theorem State.setAlu_romB (r : AluOut) : (s.setAlu r).romB = s.romB := rfl
@[simp] theorem State.setAlu_fault (r : AluOut) : (s.setAlu r).fault = s.fault := rfl
@[simp] theorem State.setAlu_drive (r : AluOut) : (s.setAlu r).drive = s.drive := rfl

@[simp] theorem State.setFlags_phase (z c : Bool) : (s.setFlags z c).phase = s.phase := rfl
@[simp] theorem State.setFlags_halt (z c : Bool) : (s.setFlags z c).halt = s.halt := rfl
@[simp] theorem State.setFlags_freq (z c : Bool) : (s.setFlags z c).freq = s.freq := rfl
@[simp] theorem State.setFlags_t (z c : Bool) : (s.setFlags z c).t = s.t := rfl
@[simp] theorem State.setFlags_cw (z c : Bool) : (s.setFlags z c).cw = s.cw := rfl
@[simp] theorem State.setFlags_bus (z c : Bool) : (s.setFlags z c).bus = s.bus := rfl
@[simp] theorem State.setFlags_pc (z c : Bool) : (s.setFlags z c).pc = s.pc := rfl
@[simp] theorem State.setFlags_ir (z c : Bool) : (s.setFlags z c).ir = s.ir := rfl
@[simp] theorem State.setFlags_a (z c : Bool) : (s.setFlags z c).a = s.a := rfl
@[simp] theorem State.setFlags_b (z c : Bool) : (s.setFlags z c).b = s.b := rfl
@[simp] theorem State.setFlags_flags (z c : Bool) : (s.setFlags z c).flags = packFlags z c := rfl
@[simp] theorem State.setFlags_out (z c : Bool) : (s.setFlags z c).out = s.out := rfl
@[simp] theorem State.setFlags_mar (z c : Bool) : (s.setFlags z c).mar = s.mar := rfl
@[simp] theorem State.setFlags_aluRes (z c : Bool) : (s.setFlags z c).aluRes = s.aluRes := rfl
@[simp] theorem State.setFlags_aluZ (z c : Bool) : (s.setFlags z c).aluZ = s.aluZ := rfl
@[simp] theorem State.setFlags_aluC (z c : Bool) : (s.setFlags z c).aluC = s.aluC := rfl
@[simp] theorem State.setFlags_ram (z c : Bool) : (s.setFlags z c).ram = s.ram := rfl
@[simp] theorem State.setFlags_ramSize (z c : Bool) : (s.setFlags z c).ramSize = s.ramSize := rfl
@[simp] theorem State.setFlags_hltOpcode (z c : Bool) : (s.setFlags z c).hltOpcode = s.hltOpcode := rfl
@[simp] theorem State.setFlags_romA (z c : Bool) : (s.setFlags z c).romA = s.romA := rfl
@[simp] theorem State.setFlags_romB (z c : Bool) : (s.setFlags z c).romB = s.romB := rfl
@[simp] theorem State.setFlags_fault (z c : Bool) : (s.setFlags z c).fault = s.fault := rfl
@[simp] theorem State.setFlags_drive (z c : Bool) : (s.setFlags z c).drive = s.drive := rfl

@[simp] theorem State.setTiming_phase (p : Level) (n : BitVec 3) (w : ControlWord) : (s.setTiming p n w).phase = p := rfl
@[simp] theorem State.setTiming_halt (p : Level) (n : BitVec 3) (w : ControlWord) : (s.setTiming p n w).halt = s.halt := rfl
@[simp] theorem State.setTiming_freq (p : Level) (n : BitVec 3) (w : ControlWord) : (s.setTiming p n w).freq = s.freq := rfl
@[simp] theorem State.setTiming_t (p : Level) (n : BitVec 3) (w : ControlWord) : (s.setTiming p n w).t = n := rfl
@[simp] theorem State.setTiming_cw (p : Level) (n : BitVec 3) (w : ControlWord) : (s.setTiming p n w).cw = w := rfl
@[simp] theorem State.setTiming_bus (p : Level) (n : BitVec 3) (w : ControlWord) : (s.setTiming p n w).bus = s.bus := rfl
@[simp] theorem State.setTiming_pc (p : Level) (n : BitVec 3) (w : ControlWord) : (s.setTiming p n w).pc = s.pc := rfl
@[simp] theorem State.setTiming_ir (p : Level) (n : BitVec 3) (w : ControlWord) : (s.setTiming p n w).ir = s.ir := rfl
@[simp] theorem State.setTiming_a (p : Level) (n : BitVec 3) (w : ControlWord) : (s.setTiming p n w).a = s.a := rfl
@[simp] theorem State.setTiming_b (p : Level) (n : BitVec 3) (w : ControlWord) : (s.setTiming p n w).b = s.b := rfl
@[simp] theorem State.setTiming_flags (p : Level) (n : BitVec 3) (w : ControlWord) : (s.setTiming p n w).flags = s.flags := rfl
@[simp] theorem State.setTiming_out (p : Level) (n : BitVec 3) (w : ControlWord) : (s.setTiming p n w).out = s.out := rfl
@[simp] theorem State.setTiming_mar (p : Level) (n : BitVec 3) (w : ControlWord) : (s.setTiming p n w).mar = s.mar := rfl
@[simp] theorem State.setTiming_aluRes (p : Level) (n : BitVec 3) (w : ControlWord) : (s.setTiming p n w).aluRes = s.aluRes := rfl
@[simp] theorem State.setTiming_aluZ (p : Level) (n : BitVec 3) (w : ControlWord) : (s.setTiming p n w).aluZ = s.aluZ := rfl
@[simp] theorem State.setTiming_aluC (p : Level) (n : BitVec 3) (w : ControlWord) : (s.setTiming p n w).aluC = s.aluC := rfl
@[simp] theorem State.setTiming_ram (p : Level) (n : BitVec 3) (w : ControlWord) : (s.setTiming p n w).ram = s.ram := rfl
@[simp] theorem State.setTiming_ramSize (p : Level) (n : BitVec 3) (w : ControlWord) : (s.setTiming p n w).ramSize = s.ramSize := rfl
@[simp] theorem State.setTiming_hltOpcode (p : Level) (n : BitVec 3) (w : ControlWord) : (s.setTiming p n w).hltOpcode = s.hltOpcode := rfl
@[simp] theorem State.setTiming_romA (p : Level) (n : BitVec 3) (w : ControlWord) : (s.setTiming p n w).romA = s.romA := rfl
@[simp] theorem State.setTiming_romB (p : Level) (n : BitVec 3) (w : ControlWord) : (s.setTiming p n w).romB = s.romB := rfl
@[simp] theorem State.setTiming_fault (p : Level) (n : BitVec 3) (w : ControlWord) : (s.setTiming p n w).fault = s.fault := rfl
@[simp] theorem State.setTiming_drive (p : Level) (n : BitVec 3) (w : ControlWord) : (s.setTiming p n w).drive = s.drive := rfl

@[simp] theorem State.raiseFault_phase (k : FaultKind) : (s.raiseFault k).phase = s.phase := rfl
@[simp] theorem State.raiseFault_halt (k : FaultKind) : (s.raiseFault k).halt = s.halt := rfl
@[simp] theorem State.raiseFault_freq (k : FaultKind) : (s.raiseFault k).freq = s.freq := rfl
@[simp] theorem State.raiseFault_t (k : FaultKind) : (s.raiseFault k).t = s.t := rfl
@[simp] theorem State.raiseFault_cw (k : FaultKind) : (s.raiseFault k).cw = s.cw := rfl
@[simp] theorem State.raiseFault_bus (k : FaultKind) : (s.raiseFault k).bus = s.bus := rfl
@[simp] theorem State.raiseFault_pc (k : FaultKind) : (s.raiseFault k).pc = s.pc := rfl
@[simp] theorem State.raiseFault_ir (k : FaultKind) : (s.raiseFault k).ir = s.ir := rfl
@[simp] theorem State.raiseFault_a (k : FaultKind) : (s.raiseFault k).a = s.a := rfl
@[simp] theorem State.raiseFault_b (k : FaultKind) : (s.raiseFault k).b = s.b := rfl
@[simp] theorem State.raiseFault_flags (k : FaultKind) : (s.raiseFault k).flags = s.flags := rfl
@[simp] theorem State.raiseFault_out (k : FaultKind) : (s.raiseFault k).out = s.out := rfl
@[simp] theorem State.raiseFault_mar (k : FaultKind) : (s.raiseFault k).mar = s.mar := rfl
@[simp] theorem State.raiseFault_aluRes (k : FaultKind) : (s.raiseFault k).aluRes = s.aluRes := rfl
@[simp] theorem State.raiseFault_aluZ (k : FaultKind) : (s.raiseFault k).aluZ = s.aluZ := rfl
@[simp] theorem State.raiseFault_aluC (k : FaultKind) : (s.raiseFault k).aluC = s.aluC := rfl
@[simp] theorem State.raiseFault_ram (k : FaultKind) : (s.raiseFault k).ram = s.ram := rfl
@[simp] theorem State.raiseFault_ramSize (k : FaultKind) : (s.raiseFault k).ramSize = s.ramSize := rfl
@[simp] theorem State.raiseFault_hltOpcode (k : FaultKind) : (s.raiseFault k).hltOpcode = s.hltOpcode := rfl
@[simp] theorem State.raiseFault_romA (k : FaultKind) : (s.raiseFault k).romA = s.romA := rfl
@[simp] theorem State.raiseFault_romB (k : FaultKind) : (s.raiseFault k).romB = s.romB := rfl
@[simp] theorem State.raiseFault_fault (k : FaultKind) : (s.raiseFault k).fault = some k := rfl
@[simp] theorem State.raiseFault_drive (k : FaultKind) : (s.raiseFault k).drive = s.drive := rfl

@[simp] theorem State.fetchInstr_phase (w : Byte) : (s.fetchInstr w).phase = s.phase := rfl
@[simp] theorem State.fetchInstr_halt (w : Byte) : (s.fetchInstr w).halt = s.halt := rfl
@[simp] theorem State.fetchInstr_freq (w : Byte) : (s.fetchInstr w).freq = s.freq := rfl
@[simp] theorem State.fetchInstr_t (w : Byte) : (s.fetchInstr w).t = s.t := rfl
@[simp] theorem State.fetchInstr_cw (w : Byte) : (s.fetchInstr w).cw = s.cw := rfl
@[simp] theorem State.fetchInstr_bus (w : Byte) : (s.fetchInstr w).bus = w := rfl
@[simp] theorem State.fetchInstr_pc (w : Byte) : (s.fetchInstr w).pc = s.pc + 1 := rfl
@[simp] theorem State.fetchInstr_ir (w : Byte) : (s.fetchInstr w).ir = w.setWidth 16 := rfl
@[simp] theorem State.fetchInstr_a (w : Byte) : (s.fetchInstr w).a = s.a := rfl
@[simp] theorem State.fetchInstr_b (w : Byte) : (s.fetchInstr w).b = s.b := rfl
@[simp] theorem State.fetchInstr_flags (w : Byte) : (s.fetchInstr w).flags = s.flags := rfl
@[simp] theorem State.fetchInstr_out (w : Byte) : (s.fetchInstr w).out = s.out := rfl
@[simp] theorem State.fetchInstr_mar (w : Byte) : (s.fetchInstr w).mar = s.pc := rfl
@[simp] theorem State.fetchInstr_aluRes (w : Byte) : (s.fetchInstr w).aluRes = s.aluRes := rfl
@[simp] theorem State.fetchInstr_aluZ (w : Byte) : (s.fetchInstr w).aluZ = s.aluZ := rfl
@[simp] theorem State.fetchInstr_aluC (w : Byte) : (s.fetchInstr w).aluC = s.aluC := rfl
@[simp] theorem State.fetchInstr_ram (w : Byte) : (s.fetchInstr w).ram = s.ram := rfl
@[simp] theorem State.fetchInstr_ramSize (w : Byte) : (s.fetchInstr w).ramSize = s.ramSize := rfl
@[simp] theorem State.fetchInstr_hltOpcode (w : Byte) : (s.fetchInstr w).hltOpcode = s.hltOpcode := rfl
@[simp] theorem State.fetchInstr_romA (w : Byte) : (s.fetchInstr w).romA = s.romA := rfl
@[simp] theorem State.fetchInstr_romB (w : Byte) : (s.fetchInstr w).romB = s.romB := rfl
@[simp] theorem State.fetchInstr_fault (w : Byte) : (s.fetchInstr w).fault = s.fault := rfl
@[simp] theorem State.fetchInstr_drive (w : Byte) : (s.fetchInstr w).drive = s.drive := rfl

@[simp] theorem State.endCycle_phase : s.endCycle.phase = .low := rfl
@[simp] theorem State.endCycle_halt : s.endCycle.halt = s.halt := rfl
@[simp] theorem State.endCycle_freq : s.endCycle.freq = s.freq := rfl
@[simp] theorem State.endCycle_t : s.endCycle.t = 0 := rfl
@[simp] theorem State.endCycle_cw : s.endCycle.cw = 0x2002 := rfl
@[simp] theorem State.endCycle_bus : s.endCycle.bus = s.bus := rfl
@[simp] theorem State.endCycle_pc : s.endCycle.pc = s.pc := rfl
@[simp] theorem State.endCycle_ir : s.endCycle.ir = s.ir := rfl
@[simp] theorem State.endCycle_a : s.endCycle.a = s.a := rfl
@[simp] theorem State.endCycle_b : s.endCycle.b = s.b := rfl
@[simp] theorem State.endCycle_flags : s.endCycle.flags = s.flags := rfl
@[simp] theorem State.endCycle_out : s.endCycle.out = s.out := rfl
@[simp] theorem State.endCycle_mar : s.endCycle.mar = s.mar := rfl
@[simp] theorem State.endCycle_aluRes : s.endCycle.aluRes = s.aluRes := rfl
@[simp] theorem State.endCycle_aluZ : s.endCycle.aluZ = s.aluZ := rfl
@[simp] theorem State.endCycle_aluC : s.endCycle.aluC = s.aluC := rfl
@[simp] theorem State.endCycle_ram : s.endCycle.ram = s.ram := rfl
@[simp] theorem State.endCycle_ramSize : s.endCycle.ramSize = s.ramSize := rfl
@[simp] theorem State.endCycle_hltOpcode : s.endCycle.hltOpcode = s.hltOpcode := rfl
@[simp] theorem State.endCycle_romA : s.endCycle.romA = s.romA := rfl
@[simp] theorem State.endCycle_romB : s.endCycle.romB = s.romB := rfl
@[simp] theorem State.endCycle_fault : s.endCycle.fault = s.fault := rfl
@[simp] theorem State.endCycle_drive : s.endCycle.drive = s.drive := rfl

@[simp] theorem latchPass_phase : (latchPass s).phase = s.phase.not := rfl
@[simp] theorem latchPass_halt : (latchPass s).halt = if sig s.fetchedWord .hlt then .high else s.halt := rfl
@[simp] theorem latchPass_freq : (latchPass s).freq = s.freq := rfl
@[simp] theorem latchPass_t : (latchPass s).t = s.t := rfl
@[simp] theorem latchPass_cw : (latchPass s).cw = s.fetchedWord := rfl
@[simp] theorem latchPass_bus : (latchPass s).bus = s.bus := rfl
@[simp] theorem latchPass_pc : (latchPass s).pc = s.pc := rfl
@[simp] theorem latchPass_ir : (latchPass s).ir = s.ir := rfl
@[simp] theorem latchPass_a : (latchPass s).a = s.a := rfl
@[simp] theorem latchPass_b : (latchPass s).b = s.b := rfl
@[simp] theorem latchPass_flags : (latchPass s).flags = s.flags := rfl
@[simp] theorem latchPass_out : (latchPass s).out = s.out := rfl
@[simp] theorem latchPass_mar : (latchPass s).mar = s.mar := rfl
@[simp] theorem latchPass_aluRes : (latchPass s).aluRes = s.aluRes := rfl
@[simp] theorem latchPass_aluZ : (latchPass s).aluZ = s.aluZ := rfl
@[simp] theorem latchPass_aluC : (latchPass s).aluC = s.aluC := rfl
@[simp] theorem latchPass_ram : (latchPass s).ram = s.ram := rfl
@[simp] theorem latchPass_ramSize : (latchPass s).ramSize = s.ramSize := rfl
@[simp] theorem latchPass_hltOpcode : (latchPass s).hltOpcode = s.hltOpcode := rfl
@[simp] theorem latchPass_romA : (latchPass s).romA = s.romA := rfl
@[simp] theorem latchPass_romB : (latchPass s).romB = s.romB := rfl
@[simp] theorem latchPass_fault : (latchPass s).fault = s.fault := rfl
@[simp] theorem latchPass_drive : (latchPass s).drive = s.drive := rfl

@[simp] theorem commit_phase : (commit s).phase = s.phase := rfl
@[simp] theorem commit_halt : (commit s).halt = s.halt := rfl
@[simp] theorem commit_freq : (commit s).freq = s.freq := rfl
@[simp] theorem commit_t : (commit s).t = s.t + 1 := rfl
@[simp] theorem commit_cw : (commit s).cw = s.cw := rfl
@[simp] theorem commit_bus : (commit s).bus = resolvedBus s := rfl
@[simp] theorem commit_pc : (commit s).pc = nextPc s := rfl
@[simp] theorem commit_ir : (commit s).ir = nextIr s := rfl
@[simp] theorem commit_a : (commit s).a = nextA s := rfl
@[simp] theorem commit_b : (commit s).b = nextB s := rfl
@[simp] theorem commit_flags : (commit s).flags = nextFlags s := rfl
@[simp] theorem commit_out : (commit s).out = nextOut s := rfl
@[simp] theorem commit_mar : (commit s).mar = nextMar s := rfl
@[simp] theorem commit_aluRes : (commit s).aluRes = (nextAlu s).res := rfl
@[simp] theorem commit_aluZ : (commit s).aluZ = (nextAlu s).z := rfl
@[simp] theorem commit_aluC : (commit s).aluC = (nextAlu s).c := rfl
@[simp] theorem commit_ram : (commit s).ram = nextRam s := rfl
@[simp] theorem commit_ramSize : (commit s).ramSize = s.ramSize := rfl
@[simp] theorem commit_hltOpcode : (commit s).hltOpcode = s.hltOpcode := rfl
@[simp] theorem commit_romA : (commit s).romA = s.romA := rfl
@[simp] theorem commit_romB : (commit s).romB = s.romB := rfl
@[simp] theorem commit_fault : (commit s).fault = s.fault := rfl
@[simp] theorem commit_drive : (commit s).drive = s.drive := rfl

@[simp] theorem hostReset_phase : (hostReset s).phase = .low := rfl
@[simp] theorem hostReset_halt : (hostReset s).halt = .high := rfl
@[simp] theorem hostReset_freq : (hostReset s).freq = s.freq := rfl
@[simp] theorem hostReset_t : (hostReset s).t = 0 := rfl
@[simp] theorem hostReset_cw : (hostReset s).cw = 0 := rfl
@[simp] theorem hostReset_bus : (hostReset s).bus = 0 := rfl
@[simp] theorem hostReset_pc : (hostReset s).pc = 0 := rfl
@[simp] theorem hostReset_ir : (hostReset s).ir = 0 := rfl
@[simp] theorem hostReset_a : (hostReset s).a = 0 := rfl
@[simp] theorem hostReset_b : (hostReset s).b = 0 := rfl
@[simp] theorem hostReset_flags : (hostReset s).flags = 0 := rfl
@[simp] theorem hostReset_out : (hostReset s).out = 0 := rfl
@[simp] theorem hostReset_mar : (hostReset s).mar = 0 := rfl
@[simp] theorem hostReset_aluRes : (hostReset s).aluRes = 0 := rfl
@[simp] theorem hostReset_aluZ : (hostReset s).aluZ = false := rfl
@[simp] theorem hostReset_aluC : (hostReset s).aluC = false := rfl
@[simp] theorem hostReset_ram : (hostReset s).ram = [] := rfl
@[simp] theorem hostReset_ramSize : (hostReset s).ramSize = s.ramSize := rfl
@[simp] theorem hostReset_hltOpcode : (hostReset s).hltOpcode = s.hltOpcode := rfl
@[simp] theorem hostReset_romA : (hostReset s).romA = s.romA := rfl
@[simp] theorem hostReset_romB : (hostReset s).romB = s.romB := rfl
@[simp] theorem hostReset_fault : (hostReset s).fault = s.fault := rfl
@[simp] theorem hostReset_drive : (hostReset s).drive = s.drive := rfl

/-- A write to a cell changes RAM only. -/
theorem State.writeCell_eq (a : Nat) (v : Word) :
    s.writeCell a v = { s with ram := if s.InRam a then s.ram.write a v else s.ram } := by
  unfold State.writeCell
  split <;> rfl

@[simp] theorem State.writeCell_phase (a : Nat) (v : Word) : (s.writeCell a v).phase = s.phase := by rw [State.writeCell_eq]
@[simp] theorem State.writeCell_halt (a : Nat) (v : Word) : (s.writeCell a v).halt = s.halt := by rw [State.writeCell_eq]
@[simp] theorem State.writeCell_freq (a : Nat) (v : Word) : (s.writeCell a v).freq = s.freq := by rw [State.writeCell_eq]
@[simp] theorem State.writeCell_t (a : Nat) (v : Word) : (s.writeCell a v).t = s.t := by rw [State.writeCell_eq]
@[simp] theorem State.writeCell_cw (a : Nat) (v : Word) : (s.writeCell a v).cw = s.cw := by rw [State.writeCell_eq]
@[simp] theorem State.writeCell_bus (a : Nat) (v : Word) : (s.writeCell a v).bus = s.bus := by rw [State.writeCell_eq]
@[simp] theorem State.writeCell_pc (a : Nat) (v : Word) : (s.writeCell a v).pc = s.pc := by rw [State.writeCell_eq]
@[simp] theorem State.writeCell_ir (a : Nat) (v : Word) : (s.writeCell a v).ir = s.ir := by rw [State.writeCell_eq]
@[simp] theorem State.writeCell_a (a : Nat) (v : Word) : (s.writeCell a v).a = s.a := by rw [State.writeCell_eq]
@[simp] theorem State.writeCell_b (a : Nat) (v : Word) : (s.writeCell a v).b = s.b := by rw [State.writeCell_eq]
@[simp] theorem State.writeCell_flags (a : Nat) (v : Word) : (s.writeCell a v).flags = s.flags := by rw [State.writeCell_eq]
@[simp] theorem State.writeCell_out (a : Nat) (v : Word) : (s.writeCell a v).out = s.out := by rw [State.writeCell_eq]
@[simp] theorem State.writeCell_mar (a : Nat) (v : Word) : (s.writeCell a v).mar = s.mar := by rw [State.writeCell_eq]
@[simp] theorem State.writeCell_aluRes (a : Nat) (v : Word) : (s.writeCell a v).aluRes = s.aluRes := by rw [State.writeCell_eq]
@[simp] theorem State.writeCell_aluZ (a : Nat) (v : Word) : (s.writeCell a v).aluZ = s.aluZ := by rw [State.writeCell_eq]
@[simp] theorem State.writeCell_aluC (a : Nat) (v : Word) : (s.writeCell a v).aluC = s.aluC := by rw [State.writeCell_eq]
@[simp] theorem State.writeCell_ram (a : Nat) (v : Word) : (s.writeCell a v).ram = if s.InRam a then s.ram.write a v else s.ram := by rw [State.writeCell_eq]
@[simp] theorem State.writeCell_ramSize (a : Nat) (v : Word) : (s.writeCell a v).ramSize = s.ramSize := by rw [State.writeCell_eq]
@[simp] theorem State.writeCell_hltOpcode (a : Nat) (v : Word) : (s.writeCell a v).hltOpcode = s.hltOpcode := by rw [State.writeCell_eq]
@[simp] theorem State.writeCell_romA (a : Nat) (v : Word) : (s.writeCell a v).romA = s.romA := by rw [State.writeCell_eq]
@[simp] theorem State.writeCell_romB (a : Nat) (v : Word) : (s.writeCell a v).romB = s.romB := by rw [State.writeCell_eq]
@[simp] theorem State.writeCell_fault (a : Nat) (v : Word) : (s.writeCell a v).fault = s.fault := by rw [State.writeCell_eq]
@[simp] theorem State.writeCell_drive (a : Nat) (v : Word) : (s.writeCell a v).drive = s.drive := by rw [State.writeCell_eq]

@[simp] theorem State.accumulate_phase (v : Byte) (b : Bool) : (s.accumulate v b).phase = s.phase := rfl
@[simp] theorem State.accumulate_halt (v : Byte) (b : Bool) : (s.accumulate v b).halt = s.halt := rfl
@[simp] theorem State.accumulate_freq (v : Byte) (b : Bool) : (s.accumulate v b).freq = s.freq := rfl
@[simp] theorem State.accumulate_t (v : Byte) (b : Bool) : (s.accumulate v b).t = s.t := rfl
@[simp] theorem State.accumulate_cw (v : Byte) (b : Bool) : (s.accumulate v b).cw = s.cw := rfl
@[simp] theorem State.accumulate_bus (v : Byte) (b : Bool) : (s.accumulate v b).bus = (aluCompute s.a v b).res := rfl
@[simp] theorem State.accumulate_pc (v : Byte) (b : Bool) : (s.accumulate v b).pc = s.pc := rfl
@[simp] theorem State.accumulate_ir (v : Byte) (b : Bool) : (s.accumulate v b).ir = s.ir := rfl
@[simp] theorem State.accumulate_a (v : Byte) (b : Bool) : (s.accumulate v b).a = (aluCompute s.a v b).res := rfl
@[simp] theorem State.accumulate_b (v : Byte) (b : Bool) : (s.accumulate v b).b = v := rfl
@[simp] theorem State.accumulate_flags (v : Byte) (b : Bool) : (s.accumulate v b).flags = packFlags (aluCompute s.a v b).z (aluCompute s.a v b).c := rfl
@[simp] theorem State.accumulate_out (v : Byte) (b : Bool) : (s.accumulate v b).out = s.out := rfl
@[simp] theorem State.accumulate_mar (v : Byte) (b : Bool) : (s.accumulate v b).mar = s.mar := rfl
@[simp] theorem State.accumulate_aluRes (v : Byte) (b : Bool) : (s.accumulate v b).aluRes = (aluCompute s.a v b).res := rfl
@[simp] theorem State.accumulate_aluZ (v : Byte) (b : Bool) : (s.accumulate v b).aluZ = (aluCompute s.a v b).z := rfl
@[simp] theorem State.accumulate_aluC (v : Byte) (b : Bool) : (s.accumulate v b).aluC = (aluCompute s.a v b).c := rfl
@[simp] theorem State.accumulate_ram (v : Byte) (b : Bool) : (s.accumulate v b).ram = s.ram := rfl
@[simp] theorem State.accumulate_ramSize (v : Byte) (b : Bool) : (s.accumulate v b).ramSize = s.ramSize := rfl
@[simp] theorem State.accumulate_hltOpcode (v : Byte) (b : Bool) : (s.accumulate v b).hltOpcode = s.hltOpcode := rfl
@[simp] theorem State.accumulate_romA (v : Byte) (b : Bool) : (s.accumulate v b).romA = s.romA := rfl
@[simp] theorem State.accumulate_romB (v : Byte) (b : Bool) : (s.accumulate v b).romB = s.romB := rfl
@[simp] theorem State.accumulate_fault (v : Byte) (b : Bool) : (s.accumulate v b).fault = s.fault := rfl
@[simp] theorem State.accumulate_drive (v : Byte) (b : Bool) : (s.accumulate v b).drive = s.drive := rfl

/-- The operand byte in B and on the Bus is overwritten by ADD and SUB themselves (R121, R122). -/
theorem State.accumulate_loaded (v : Byte) (b : Bool) : ((s.setB v).setBus v).accumulate v b = s.accumulate v b := by
  simp only [State.accumulate, State.setBus_a, State.setB_a]
  rfl

@[simp] theorem State.jumpTo_phase (n : Nibble) : (s.jumpTo n).phase = s.phase := rfl
@[simp] theorem State.jumpTo_halt (n : Nibble) : (s.jumpTo n).halt = s.halt := rfl
@[simp] theorem State.jumpTo_freq (n : Nibble) : (s.jumpTo n).freq = s.freq := rfl
@[simp] theorem State.jumpTo_t (n : Nibble) : (s.jumpTo n).t = s.t := rfl
@[simp] theorem State.jumpTo_cw (n : Nibble) : (s.jumpTo n).cw = s.cw := rfl
@[simp] theorem State.jumpTo_bus (n : Nibble) : (s.jumpTo n).bus = operandByte n := rfl
@[simp] theorem State.jumpTo_pc (n : Nibble) : (s.jumpTo n).pc = operandByte n := rfl
@[simp] theorem State.jumpTo_ir (n : Nibble) : (s.jumpTo n).ir = s.ir := rfl
@[simp] theorem State.jumpTo_a (n : Nibble) : (s.jumpTo n).a = s.a := rfl
@[simp] theorem State.jumpTo_b (n : Nibble) : (s.jumpTo n).b = s.b := rfl
@[simp] theorem State.jumpTo_flags (n : Nibble) : (s.jumpTo n).flags = s.flags := rfl
@[simp] theorem State.jumpTo_out (n : Nibble) : (s.jumpTo n).out = s.out := rfl
@[simp] theorem State.jumpTo_mar (n : Nibble) : (s.jumpTo n).mar = s.mar := rfl
@[simp] theorem State.jumpTo_aluRes (n : Nibble) : (s.jumpTo n).aluRes = s.aluRes := rfl
@[simp] theorem State.jumpTo_aluZ (n : Nibble) : (s.jumpTo n).aluZ = s.aluZ := rfl
@[simp] theorem State.jumpTo_aluC (n : Nibble) : (s.jumpTo n).aluC = s.aluC := rfl
@[simp] theorem State.jumpTo_ram (n : Nibble) : (s.jumpTo n).ram = s.ram := rfl
@[simp] theorem State.jumpTo_ramSize (n : Nibble) : (s.jumpTo n).ramSize = s.ramSize := rfl
@[simp] theorem State.jumpTo_hltOpcode (n : Nibble) : (s.jumpTo n).hltOpcode = s.hltOpcode := rfl
@[simp] theorem State.jumpTo_romA (n : Nibble) : (s.jumpTo n).romA = s.romA := rfl
@[simp] theorem State.jumpTo_romB (n : Nibble) : (s.jumpTo n).romB = s.romB := rfl
@[simp] theorem State.jumpTo_fault (n : Nibble) : (s.jumpTo n).fault = s.fault := rfl
@[simp] theorem State.jumpTo_drive (n : Nibble) : (s.jumpTo n).drive = s.drive := rfl

/-! Updates of the data, inside an update of the timing: the timing moves outward. -/

@[simp] theorem State.setTiming_setTiming (p q : Level) (n m : BitVec 3) (w v : ControlWord) :
    (s.setTiming p n w).setTiming q m v = s.setTiming q m v := rfl
@[simp] theorem State.setMar_setTiming (p : Level) (n : BitVec 3) (w : ControlWord) (v : Byte) :
    (s.setTiming p n w).setMar v = (s.setMar v).setTiming p n w := rfl
@[simp] theorem State.setBus_setTiming (p : Level) (n : BitVec 3) (w : ControlWord) (v : Byte) :
    (s.setTiming p n w).setBus v = (s.setBus v).setTiming p n w := rfl
@[simp] theorem State.setA_setTiming (p : Level) (n : BitVec 3) (w : ControlWord) (v : Byte) :
    (s.setTiming p n w).setA v = (s.setA v).setTiming p n w := rfl
@[simp] theorem State.setB_setTiming (p : Level) (n : BitVec 3) (w : ControlWord) (v : Byte) :
    (s.setTiming p n w).setB v = (s.setB v).setTiming p n w := rfl
@[simp] theorem State.setOut_setTiming (p : Level) (n : BitVec 3) (w : ControlWord) (v : Byte) :
    (s.setTiming p n w).setOut v = (s.setOut v).setTiming p n w := rfl
@[simp] theorem State.setPc_setTiming (p : Level) (n : BitVec 3) (w : ControlWord) (v : Byte) :
    (s.setTiming p n w).setPc v = (s.setPc v).setTiming p n w := rfl
@[simp] theorem State.setHalt_setTiming (p : Level) (n : BitVec 3) (w : ControlWord) (v : Level) :
    (s.setTiming p n w).setHalt v = (s.setHalt v).setTiming p n w := rfl
@[simp] theorem State.setAlu_setTiming (p : Level) (n : BitVec 3) (w : ControlWord) (r : AluOut) :
    (s.setTiming p n w).setAlu r = (s.setAlu r).setTiming p n w := rfl
@[simp] theorem State.setFlags_setTiming (p : Level) (n : BitVec 3) (w : ControlWord) (z c : Bool) :
    (s.setTiming p n w).setFlags z c = (s.setFlags z c).setTiming p n w := rfl
@[simp] theorem State.raiseFault_setTiming (p : Level) (n : BitVec 3) (w : ControlWord) (k : FaultKind) :
    (s.setTiming p n w).raiseFault k = (s.raiseFault k).setTiming p n w := rfl
@[simp] theorem State.fetchInstr_setTiming (p : Level) (n : BitVec 3) (w : ControlWord) (x : Byte) :
    (s.setTiming p n w).fetchInstr x = (s.fetchInstr x).setTiming p n w := rfl
@[simp] theorem State.endCycle_setTiming (p : Level) (n : BitVec 3) (w : ControlWord) :
    (s.setTiming p n w).endCycle = s.endCycle := rfl
@[simp] theorem State.writeCell_setTiming (p : Level) (n : BitVec 3) (w : ControlWord) (a : Nat) (v : Word) :
    (s.setTiming p n w).writeCell a v = (s.writeCell a v).setTiming p n w := by
  rw [State.writeCell_eq, State.writeCell_eq]
  rfl

end Sys2Proof.Machine
end

