-- ==== Sys2Proof/Laws/Firmware.lean ====
section
/-! SUPPORT. Laws/Firmware.lean: what the ROM holds, word by word. -/

namespace Sys2Proof.Machine

theorem highByte_append_lowByte (v : Word) : highByte v ++ lowByte v = v := by
  apply BitVec.eq_of_getLsbD_eq
  intro i hi
  simp only [highByte, lowByte, BitVec.getLsbD_append, BitVec.getLsbD_extractLsb']
  by_cases h : i < 8
  · simp [h]
  · have h8 : i - 8 < 8 := by omega
    have h9 : 8 + (i - 8) = i := by omega
    simp [h, h8, h9]

theorem read_bankA (image : Nat → ControlWord) (a : Nat) (h : a < Config.romSize) :
    Mem.read (bankA image) a = lowByte (image a) := by
  unfold bankA
  rw [Mem.read_tabulate, if_pos ⟨Nat.zero_le a, by omega⟩]

theorem read_bankB (image : Nat → ControlWord) (a : Nat) (h : a < Config.romSize) :
    Mem.read (bankB image) a = highByte (image a) := by
  unfold bankB
  rw [Mem.read_tabulate, if_pos ⟨Nat.zero_le a, by omega⟩]

/-- Every address of a loaded image reads back the image's word (R40, R43). -/
theorem romRead_banks (image : Nat → ControlWord) (a : BitVec 9) :
    romRead (bankA image) (bankB image) a = image a.toNat := by
  have h : a.toNat < Config.romSize := a.isLt
  unfold romRead
  rw [read_bankA image _ h, read_bankB image _ h, highByte_append_lowByte]

theorem wf_bankA (image : Nat → ControlWord) : Mem.wf Config.romSize (bankA image) = true := Mem.wf_tabulate _ _
theorem wf_bankB (image : Nat → ControlWord) : Mem.wf Config.romSize (bankB image) = true := Mem.wf_tabulate _ _

/-- The fields of an assembled address are the flags, the opcode and the step (R56). -/
theorem romAddress_fields : ∀ (f : BitVec 2) (o : Nibble) (t : BitVec 3),
    (romAddress f o t).getLsbD 8 = zeroFlag f ∧ (romAddress f o t).getLsbD 7 = carryFlag f ∧
    (romAddress f o t).extractLsb' 3 4 = o ∧ (romAddress f o t).extractLsb' 0 3 = t := by
  decide +kernel

/-- Under the reference firmware the fetched word is the reference word of the flags, opcode and step (R67, R112). -/
theorem fetchedWord_reference (s : State) (h : s.HasReferenceFirmware) :
    s.fetchedWord = referenceWord s.hltOpcode.value (zeroFlag s.flags) (carryFlag s.flags) (irOpcode s.ir) s.t := by
  obtain ⟨h1, h2, h3, h4⟩ := romAddress_fields s.flags (irOpcode s.ir) s.t
  unfold State.fetchedWord
  rw [h.1, h.2, referenceBankA, referenceBankB, romRead_banks]
  unfold referenceRom referenceImage State.romAddress
  rw [BitVec.ofNat_toNat, BitVec.setWidth_eq, h1, h2, h3, h4]

end Sys2Proof.Machine
end

