-- ==== Sys2Proof/Laws/Tick.lean ====
section
/-! SUPPORT. Laws/Tick.lean: everything a tick can do, and what the executing pass does under each word of the reference
firmware. -/

namespace Sys2Proof.Machine

/-- A tick after a fault (R133). -/
theorem tick_of_fault {s : State} (b : Bool) (h : s.fault ≠ none) : tick b s = s := if_pos h

/-- A frozen tick (R65). -/
theorem tick_of_frozen {s : State} (h : s.halt = .high) : tick false s = s := by
  unfold tick
  split
  · rfl
  · rw [if_pos ⟨rfl, h⟩]

/-- A LOW tick is the latch pass alone (R75). -/
theorem tick_low {s : State} {b : Bool} (hf : s.fault = none) (hh : ¬ (b = false ∧ s.halt = .high)) (hp : s.phase = .high) :
    tick b s = latchPass s := by
  unfold tick
  rw [if_neg (by simp [hf]), if_neg hh]
  simp [hp]

/-- A HIGH tick is the latch pass and the executing pass (R64). -/
theorem tick_high {s : State} {b : Bool} (hf : s.fault = none) (hh : ¬ (b = false ∧ s.halt = .high)) (hp : s.phase = .low) :
    tick b s = executingPass (latchPass s) := by
  unfold tick
  rw [if_neg (by simp [hf]), if_neg hh]
  simp [hp]

/-- Contention ends the executing pass before anything changes (R72). -/
theorem executingPass_contends {s : State} (hc : contends s.cw = true) : executingPass s = s.raiseFault .busContention :=
  if_pos hc

/-- A RAM access outside RAM ends the executing pass before anything changes (R38, R133). -/
theorem executingPass_outOfRange {s : State} (hc : contends s.cw = false) (ha : accessesRam s.cw = true)
    (hr : ¬ s.InRam s.mar.toNat) : executingPass s = s.raiseFault .outOfRange := by
  unfold executingPass
  rw [if_neg (by simp [hc]), if_pos ⟨ha, hr⟩]

/-- The executing pass when the word can be executed (R105). -/
theorem executingPass_commit {s : State} (hc : contends s.cw = false) (hr : accessesRam s.cw = true → s.InRam s.mar.toNat) :
    executingPass s = commit s := by
  unfold executingPass
  rw [if_neg (by simp [hc]), if_neg (by rintro ⟨h1, h2⟩; exact h2 (hr h1))]

/-- Everything a tick can do: nothing, the latch pass, or the latch pass with a fault or with all effects of the word. -/
theorem tick_cases (b : Bool) (s : State) :
    tick b s = s ∧ (s.fault ≠ none ∨ (b = false ∧ s.halt = .high)) ∨
    (s.fault = none ∧ ¬ (b = false ∧ s.halt = .high) ∧
      (s.phase = .high ∧ tick b s = latchPass s ∨
       s.phase = .low ∧ (
        (contends s.fetchedWord = true ∧ tick b s = (latchPass s).raiseFault .busContention) ∨
        (contends s.fetchedWord = false ∧ accessesRam s.fetchedWord = true ∧ ¬ s.InRam s.mar.toNat ∧
          tick b s = (latchPass s).raiseFault .outOfRange) ∨
        (contends s.fetchedWord = false ∧ (accessesRam s.fetchedWord = true → s.InRam s.mar.toNat) ∧
          tick b s = commit (latchPass s))))) := by
  by_cases hf : s.fault = none
  · by_cases hh : b = false ∧ s.halt = .high
    · left
      refine ⟨?_, .inr hh⟩
      rw [hh.1]
      exact tick_of_frozen hh.2
    · right
      refine ⟨hf, hh, ?_⟩
      cases hp : s.phase with
      | high => exact .inl ⟨rfl, tick_low hf hh hp⟩
      | low =>
        refine .inr ⟨rfl, ?_⟩
        rw [tick_high hf hh hp]
        by_cases hc : contends s.fetchedWord = true
        · exact .inl ⟨hc, executingPass_contends hc⟩
        · have hc' : contends s.fetchedWord = false := by simpa using hc
          by_cases hr : accessesRam s.fetchedWord = true ∧ ¬ s.InRam s.mar.toNat
          · exact .inr (.inl ⟨hc', hr.1, hr.2, executingPass_outOfRange hc' hr.1 hr.2⟩)
          · have hr' : accessesRam s.fetchedWord = true → s.InRam s.mar.toNat := by
              intro ha
              by_contra hn
              exact hr ⟨ha, hn⟩
            exact .inr (.inr ⟨hc', hr', executingPass_commit hc' hr'⟩)
  · exact .inl ⟨tick_of_fault b hf, .inl hf⟩

/-- One driver puts its value on the Bus (R73). -/
theorem resolvedBus_of_driver {s : State} {m : Module} (h : drivers s.cw = [m]) : resolvedBus s = driveValue s m := by
  unfold resolvedBus
  rw [h]

/-- With no driver the Bus keeps its value (R73, decision D14). -/
theorem resolvedBus_of_none {s : State} (h : drivers s.cw = []) : resolvedBus s = s.bus := by
  unfold resolvedBus
  rw [h]

end Sys2Proof.Machine
end

