-- ==== Sys2Proof/Laws/Words.lean ====
section
/-! SUPPORT. Laws/Words.lean: the executing pass under each word of the reference firmware (spec/42_reference_firmware.md
R108, R112), as named updates of the state. -/

namespace Sys2Proof.Machine

variable {s : State}

/-- no signal (R110). -/
theorem executingPass_idle (h : s.cw = 0x0000) :
    executingPass s = s.setTiming s.phase (s.t + 1) s.cw := by
  have hb := resolvedBus_of_none (s := s) (by rw [h]; rfl)
  rw [executingPass_commit (by rw [h]; rfl) (by rw [h]; intro e; cases e)]
  simp [commit, hb, nextPc, nextIr, nextA, nextB, nextOut, nextMar, nextFlags, nextAlu, nextRam, h, sig,
    Signal.position, State.setTiming]

/-- HLT: nothing on the executing pass (R87). -/
theorem executingPass_halt (h : s.cw = 0x0001) :
    executingPass s = s.setTiming s.phase (s.t + 1) s.cw := by
  have hb := resolvedBus_of_none (s := s) (by rw [h]; rfl)
  rw [executingPass_commit (by rw [h]; rfl) (by rw [h]; intro e; cases e)]
  simp [commit, hb, nextPc, nextIr, nextA, nextB, nextOut, nextMar, nextFlags, nextAlu, nextRam, h, sig,
    Signal.position, State.setTiming]

/-- MI|CO (R107). -/
theorem executingPass_fetchAddress (h : s.cw = 0x2002) :
    executingPass s = ((s.setMar s.pc).setBus s.pc).setTiming s.phase (s.t + 1) s.cw := by
  have hb := resolvedBus_of_driver (s := s) (m := .pc) (by rw [h]; rfl)
  rw [executingPass_commit (by rw [h]; rfl) (by rw [h]; intro e; cases e)]
  simp [commit, hb, driveValue, nextPc, nextIr, nextA, nextB, nextOut, nextMar, nextFlags, nextAlu, nextRam, h, sig,
    Signal.position, State.setMar, State.setBus, State.setTiming]

/-- RO|II|CE (R107). -/
theorem executingPass_fetchWord (h : s.cw = 0x1028) (hr : s.InRam s.mar.toNat) :
    executingPass s = ((s.fetchInstr (lowByte (s.ramAt s.mar.toNat))).setMar s.mar).setTiming s.phase (s.t + 1) s.cw := by
  have hb := resolvedBus_of_driver (s := s) (m := .ram) (by rw [h]; rfl)
  rw [executingPass_commit (by rw [h]; rfl) fun _ => hr]
  simp [commit, hb, driveValue, nextPc, nextIr, nextA, nextB, nextOut, nextMar, nextFlags, nextAlu, nextRam, h, sig,
    Signal.position, State.setMar, State.fetchInstr, State.setTiming]

/-- MI|IO (R108). -/
theorem executingPass_operandAddress (h : s.cw = 0x0012) :
    executingPass s = ((s.setMar (operandByte (irOperand s.ir))).setBus (operandByte (irOperand s.ir))).setTiming s.phase (s.t + 1) s.cw := by
  have hb := resolvedBus_of_driver (s := s) (m := .ir) (by rw [h]; rfl)
  rw [executingPass_commit (by rw [h]; rfl) (by rw [h]; intro e; cases e)]
  simp [commit, hb, driveValue, nextPc, nextIr, nextA, nextB, nextOut, nextMar, nextFlags, nextAlu, nextRam, h, sig,
    Signal.position, State.setMar, State.setBus, State.setTiming]

/-- RO|AI (R108). -/
theorem executingPass_loadA (h : s.cw = 0x0048) (hr : s.InRam s.mar.toNat) :
    executingPass s = ((s.setA (lowByte (s.ramAt s.mar.toNat))).setBus (lowByte (s.ramAt s.mar.toNat))).setTiming s.phase (s.t + 1) s.cw := by
  have hb := resolvedBus_of_driver (s := s) (m := .ram) (by rw [h]; rfl)
  rw [executingPass_commit (by rw [h]; rfl) fun _ => hr]
  simp [commit, hb, driveValue, nextPc, nextIr, nextA, nextB, nextOut, nextMar, nextFlags, nextAlu, nextRam, h, sig,
    Signal.position, State.setBus, State.setA, State.setTiming]

/-- IO|AI (R108). -/
theorem executingPass_immediateA (h : s.cw = 0x0050) :
    executingPass s = ((s.setA (operandByte (irOperand s.ir))).setBus (operandByte (irOperand s.ir))).setTiming s.phase (s.t + 1) s.cw := by
  have hb := resolvedBus_of_driver (s := s) (m := .ir) (by rw [h]; rfl)
  rw [executingPass_commit (by rw [h]; rfl) (by rw [h]; intro e; cases e)]
  simp [commit, hb, driveValue, nextPc, nextIr, nextA, nextB, nextOut, nextMar, nextFlags, nextAlu, nextRam, h, sig,
    Signal.position, State.setBus, State.setA, State.setTiming]

/-- AO|RI (R108). -/
theorem executingPass_storeA (h : s.cw = 0x0084) (hr : s.InRam s.mar.toNat) :
    executingPass s = ((s.writeCell s.mar.toNat (s.a.setWidth 16)).setBus s.a).setTiming s.phase (s.t + 1) s.cw := by
  have hb := resolvedBus_of_driver (s := s) (m := .acc) (by rw [h]; rfl)
  rw [executingPass_commit (by rw [h]; rfl) fun _ => hr]
  simp [commit, hb, driveValue, nextPc, nextIr, nextA, nextB, nextOut, nextMar, nextFlags, nextAlu, nextRam, h, sig,
    Signal.position, State.setBus, State.setTiming, State.writeCell_eq, hr]

/-- RO|BI (R108). -/
theorem executingPass_loadB (h : s.cw = 0x0408) (hr : s.InRam s.mar.toNat) :
    executingPass s = ((s.setB (lowByte (s.ramAt s.mar.toNat))).setBus (lowByte (s.ramAt s.mar.toNat))).setTiming s.phase (s.t + 1) s.cw := by
  have hb := resolvedBus_of_driver (s := s) (m := .ram) (by rw [h]; rfl)
  rw [executingPass_commit (by rw [h]; rfl) fun _ => hr]
  simp [commit, hb, driveValue, nextPc, nextIr, nextA, nextB, nextOut, nextMar, nextFlags, nextAlu, nextRam, h, sig,
    Signal.position, State.setBus, State.setB, State.setTiming]

/-- AO|OI (R108). -/
theorem executingPass_outputA (h : s.cw = 0x0880) :
    executingPass s = ((s.setOut s.a).setBus s.a).setTiming s.phase (s.t + 1) s.cw := by
  have hb := resolvedBus_of_driver (s := s) (m := .acc) (by rw [h]; rfl)
  rw [executingPass_commit (by rw [h]; rfl) (by rw [h]; intro e; cases e)]
  simp [commit, hb, driveValue, nextPc, nextIr, nextA, nextB, nextOut, nextMar, nextFlags, nextAlu, nextRam, h, sig,
    Signal.position, State.setBus, State.setOut, State.setTiming]

/-- IO|J (R108). -/
theorem executingPass_jump (h : s.cw = 0x4010) :
    executingPass s = ((s.setPc (operandByte (irOperand s.ir))).setBus (operandByte (irOperand s.ir))).setTiming s.phase (s.t + 1) s.cw := by
  have hb := resolvedBus_of_driver (s := s) (m := .ir) (by rw [h]; rfl)
  rw [executingPass_commit (by rw [h]; rfl) (by rw [h]; intro e; cases e)]
  simp [commit, hb, driveValue, nextPc, nextIr, nextA, nextB, nextOut, nextMar, nextFlags, nextAlu, nextRam, h, sig,
    Signal.position, State.setBus, State.setPc, State.setTiming]

/-- EO|AI|FI (R108). -/
theorem executingPass_addA (h : s.cw = 0x8140) :
    executingPass s = (s.accumulate s.b false).setTiming s.phase (s.t + 1) s.cw := by
  have hb := resolvedBus_of_driver (s := s) (m := .alu) (by rw [h]; rfl)
  rw [executingPass_commit (by rw [h]; rfl) (by rw [h]; intro e; cases e)]
  simp [commit, hb, driveValue, nextPc, nextIr, nextA, nextB, nextOut, nextMar, nextFlags, nextAlu, nextRam, aluOf, h, sig,
    Signal.position, State.accumulate, State.setB, State.setA, State.setFlags, State.setAlu, State.setBus, State.setTiming]

/-- EO|AI|SU|FI (R108). -/
theorem executingPass_subA (h : s.cw = 0x8340) :
    executingPass s = (s.accumulate s.b true).setTiming s.phase (s.t + 1) s.cw := by
  have hb := resolvedBus_of_driver (s := s) (m := .alu) (by rw [h]; rfl)
  rw [executingPass_commit (by rw [h]; rfl) (by rw [h]; intro e; cases e)]
  simp [commit, hb, driveValue, nextPc, nextIr, nextA, nextB, nextOut, nextMar, nextFlags, nextAlu, nextRam, aluOf, h, sig,
    Signal.position, State.accumulate, State.setB, State.setA, State.setFlags, State.setAlu, State.setBus, State.setTiming]

end Sys2Proof.Machine
end

