-- ==== Sys2Proof/Laws/Cycle.lean ====
section
/-! SUPPORT. Laws/Cycle.lean: an instruction cycle of the reference firmware, tick by tick: the two ticks of a micro-step, the
fetch, and the idle steps at the end. -/

namespace Sys2Proof.Machine

/-- Ticks have an effect, and the ROM holds the reference firmware. -/
abbrev State.Running (s : State) : Prop := s.fault = none ∧ ¬ s.Frozen ∧ s.HasReferenceFirmware

/-- The word the reference firmware holds at step `t` for the state's flags and opcode (R67, R112). -/
def State.wordAt (s : State) (t : BitVec 3) : ControlWord :=
  referenceWord s.hltOpcode.value (zeroFlag s.flags) (carryFlag s.flags) (irOpcode s.ir) t

/-- The fetch under the reference firmware (R67). -/
theorem State.fetchedWord_eq {s : State} (h : s.HasReferenceFirmware) : s.fetchedWord = s.wordAt s.t :=
  fetchedWord_reference s h

/-- A state is its data with its own timing. -/
theorem State.setTiming_self (s : State) : s.setTiming s.phase s.t s.cw = s := rfl

/-- The host's ticks stand still exactly when the tick of the drive mode is frozen. -/
theorem State.frozen_iff (s : State) : s.Frozen ↔ (s.drive.tickArgument = false ∧ s.halt = .high) := by
  unfold State.Frozen
  cases s.drive <;> simp [Drive.tickArgument]

theorem hostTick_of_low {s : State} (h : s.Running) (hp : s.phase = .low) :
    s.hostTick = executingPass (latchPass s) :=
  tick_high h.1 (fun e => h.2.1 (s.frozen_iff.2 e)) hp

theorem hostTick_of_high {s : State} (h : s.Running) (hp : s.phase = .high) : s.hostTick = latchPass s :=
  tick_low h.1 (fun e => h.2.1 (s.frozen_iff.2 e)) hp

/-- The latch pass under a word without HLT (R69). -/
theorem latchPass_of_word {s : State} {w : ControlWord} (h : s.fetchedWord = w) (hh : sig w .hlt = false) :
    latchPass s = { s with phase := s.phase.not, cw := w } := by
  simp [latchPass, h, hh]

/-- The latch pass under a word with HLT (R69). -/
theorem latchPass_of_hlt {s : State} {w : ControlWord} (h : s.fetchedWord = w) (hh : sig w .hlt = true) :
    latchPass s = { s with phase := s.phase.not, cw := w, halt := .high } := by
  simp [latchPass, h, hh]

theorem ticksToBoundary_succ (n : Nat) (s : State) : ticksToBoundary (n + 1) s =
    if s.hostTick.Stopped ∨ s.hostTick.AtCycleStart then s.hostTick else ticksToBoundary n s.hostTick := rfl

/-- A tick that reaches neither a boundary nor a stop is followed by the next one. -/
theorem ticksToBoundary_continue {s : State} (n : Nat) (hf : s.hostTick.fault = none) (hz : ¬ s.hostTick.Frozen)
    (hb : ¬ s.hostTick.AtCycleStart) : ticksToBoundary (n + 1) s = ticksToBoundary n s.hostTick := by
  rw [ticksToBoundary_succ, if_neg]
  rintro ((h | h) | h)
  · exact h hf
  · exact hz h
  · exact hb h

/-- A tick that reaches a boundary ends the run. -/
theorem ticksToBoundary_boundary {s : State} (n : Nat) (hb : s.hostTick.AtCycleStart) :
    ticksToBoundary (n + 1) s = s.hostTick := if_pos (.inr hb)

/-- A tick after which ticks have no effect ends the run. -/
theorem ticksToBoundary_stopped {s : State} (n : Nat) (hb : s.hostTick.Stopped) :
    ticksToBoundary (n + 1) s = s.hostTick := if_pos (.inl hb)

/-- The HIGH tick of a micro-step under the word `w`, which has no HLT. -/
theorem hostTick_micro {x y : State} {t : BitVec 3} {w : ControlWord} (c : ControlWord) (h : x.Running)
    (hw : x.wordAt t = w) (hh : sig w .hlt = false)
    (hy : executingPass (x.setTiming .high t w) = y.setTiming .high (t + 1) w) :
    (x.setTiming .low t c).hostTick = y.setTiming .high (t + 1) w := by
  rw [hostTick_of_low (s := x.setTiming .low t c) h rfl,
    latchPass_of_word ((State.fetchedWord_eq (s := x.setTiming .low t c) h.2.2).trans hw) hh]
  exact hy

/-- The LOW tick after it, under a word `w` without HLT. -/
theorem hostTick_latch {y : State} {t : BitVec 3} {w : ControlWord} (c : ControlWord) (h : y.Running)
    (hw : y.wordAt t = w) (hh : sig w .hlt = false) :
    (y.setTiming .high t c).hostTick = y.setTiming .low t w := by
  rw [hostTick_of_high (s := y.setTiming .high t c) h rfl,
    latchPass_of_word ((State.fetchedWord_eq (s := y.setTiming .high t c) h.2.2).trans hw) hh]
  rfl

/-- A HIGH tick that does not fault is followed by its LOW tick. -/
theorem ticksToBoundary_high {x y : State} {t t' : BitVec 3} {c w : ControlWord} (n : Nat) (h : y.Running)
    (e : (x.setTiming .low t c).hostTick = y.setTiming .high t' w) :
    ticksToBoundary (n + 1) (x.setTiming .low t c) = ticksToBoundary n (y.setTiming .high t' w) := by
  rw [ticksToBoundary_continue n (by rw [e]; exact h.1) (by rw [e]; exact h.2.1) (by rw [e]; rintro ⟨e', -⟩; cases e'), e]

/-- A LOW tick inside the cycle under a word without HLT is followed by the next HIGH tick. -/
theorem ticksToBoundary_low {y : State} {t : BitVec 3} {w : ControlWord} (n : Nat) (c : ControlWord) (h : y.Running)
    (ht : t ≠ 0) (hw : y.wordAt t = w) (hh : sig w .hlt = false) :
    ticksToBoundary (n + 1) (y.setTiming .high t c) = ticksToBoundary n (y.setTiming .low t w) := by
  have e := hostTick_latch c h hw hh
  rw [ticksToBoundary_continue n (by rw [e]; exact h.1) (by rw [e]; exact h.2.1) (by rw [e]; rintro ⟨-, e'⟩; exact ht e'), e]

/-- The two ticks of a micro-step whose word and whose next word have no HLT, before the last step of the cycle. -/
theorem microStep {x : State} (y : State) {t : BitVec 3} {w w' : ControlWord} (n : Nat) (c : ControlWord) (h : x.Running)
    (hw : x.wordAt t = w) (hh : sig w .hlt = false)
    (hy : executingPass (x.setTiming .high t w) = y.setTiming .high (t + 1) w) (hr : y.Running)
    (ht : t + 1 ≠ 0) (hw' : y.wordAt (t + 1) = w') (hh' : sig w' .hlt = false) :
    ticksToBoundary (n + 2) (x.setTiming .low t c) = ticksToBoundary n (y.setTiming .low (t + 1) w') :=
  (ticksToBoundary_high (n + 1) hr (hostTick_micro c h hw hh hy)).trans (ticksToBoundary_low n w hr ht hw' hh')

/-- Steps 0 and 1 hold the fetch words in every row (R107). -/
theorem State.wordAt_zero (s : State) : s.wordAt 0 = 0x2002 := rfl
theorem State.wordAt_one (s : State) : s.wordAt 1 = 0x1028 := rfl

/-- At T2 to T4 the row's own words stand (R108). -/
theorem State.wordAt_two (s : State) : s.wordAt 2 =
    (executeWords s.hltOpcode.value (zeroFlag s.flags) (carryFlag s.flags) (irOpcode s.ir)).1 := rfl
theorem State.wordAt_three (s : State) : s.wordAt 3 =
    (executeWords s.hltOpcode.value (zeroFlag s.flags) (carryFlag s.flags) (irOpcode s.ir)).2.1 := rfl
theorem State.wordAt_four (s : State) : s.wordAt 4 =
    (executeWords s.hltOpcode.value (zeroFlag s.flags) (carryFlag s.flags) (irOpcode s.ir)).2.2 := rfl

/-- A state that is ready stands at the start of a cycle. -/
theorem State.Ready.eq_setTiming {s : State} (h : s.Ready) : s.setTiming .low 0 s.cw = s := by
  obtain ⟨-, ⟨hp, ht⟩, -⟩ := h
  rw [← hp, ← ht]
  exact s.setTiming_self

/-- T0 and its LOW tick (R107, R116). -/
theorem fetch_T0 {s : State} (n : Nat) (h : s.Ready) :
    ticksToBoundary (n + 2) s = ticksToBoundary n (((s.setMar s.pc).setBus s.pc).setTiming .low 1 0x1028) := by
  have hr : s.Running := ⟨h.1, h.2.2.1, h.2.2.2.1⟩
  have e := microStep ((s.setMar s.pc).setBus s.pc) n s.cw hr s.wordAt_zero rfl (executingPass_fetchAddress rfl) hr
    (by decide) (State.wordAt_one _) rfl
  rw [h.eq_setTiming] at e
  exact e

/-- The HIGH tick of T1 (R107, R116): IR takes the word at PC, and PC increments. -/
theorem fetch_T1 {s : State} {w : Byte} (h : s.Ready) (hw : lowByte (s.ramAt s.pc.toNat) = w) :
    (((s.setMar s.pc).setBus s.pc).setTiming .low 1 0x1028).hostTick = (s.fetchInstr w).setTiming .high 2 0x1028 := by
  have hr : s.Running := ⟨h.1, h.2.2.1, h.2.2.2.1⟩
  subst hw
  exact hostTick_micro (x := (s.setMar s.pc).setBus s.pc) 0x1028 hr (State.wordAt_one _) rfl
    (executingPass_fetchWord rfl h.2.2.2.2)

/-- The fetch of instruction `i`, up to the HIGH tick of T1: three ticks (R116). -/
theorem fetch_cycle {s : State} {i : Instr} (n : Nat) (h : s.Ready) (hi : lowByte (s.ramAt s.pc.toNat) = encode s.hltOpcode i) :
    ticksToBoundary (n + 3) s = ticksToBoundary n ((s.fetchInstr (encode s.hltOpcode i)).setTiming .high 2 0x1028) := by
  have hr : s.Running := ⟨h.1, h.2.2.1, h.2.2.2.1⟩
  exact (fetch_T0 (n + 1) h).trans (ticksToBoundary_high n (y := s.fetchInstr (encode s.hltOpcode i)) hr (fetch_T1 h hi))

/-- From step `t` on, the row holds no signal (R110). -/
def State.IdleFrom (s : State) (t : BitVec 3) : Prop := ∀ t' : BitVec 3, t ≤ t' → s.wordAt t' = 0

/-- Steps T5 to T7 of every row are idle (R110). -/
theorem State.idleFrom_five (s : State) : s.IdleFrom 5 := by
  intro t ht
  obtain ⟨h0, h1, h2, h3, h4⟩ : t ≠ 0 ∧ t ≠ 1 ∧ t ≠ 2 ∧ t ≠ 3 ∧ t ≠ 4 := by
    refine ⟨?_, ?_, ?_, ?_, ?_⟩ <;> rintro rfl <;> exact absurd ht (by decide)
  unfold State.wordAt referenceWord
  rw [if_neg h0, if_neg h1, if_neg h2, if_neg h3, if_neg h4]

theorem State.idleFrom_four {s : State} (h : s.wordAt 4 = 0) : s.IdleFrom 4 := by
  intro t ht
  by_cases e : t = 4
  · rw [e, h]
  · refine s.idleFrom_five t ?_
    revert t
    decide

theorem State.idleFrom_three {s : State} (h : s.wordAt 3 = 0) (h4 : s.wordAt 4 = 0) : s.IdleFrom 3 := by
  intro t ht
  by_cases e : t = 3
  · rw [e, h]
  · refine State.idleFrom_four h4 t ?_
    revert t
    decide

theorem State.idleFrom_two {s : State} (h : s.wordAt 2 = 0) (h3 : s.wordAt 3 = 0) (h4 : s.wordAt 4 = 0) :
    s.IdleFrom 2 := by
  intro t ht
  by_cases e : t = 2
  · rw [e, h]
  · refine State.idleFrom_three h3 h4 t ?_
    revert t
    decide

/-- The idle steps: the remaining micro-steps of the cycle change nothing but the step index, and the last tick fetches the
T0 word (R110, R111, R116). -/
theorem idle_steps (k : Nat) (x : State) (t : BitVec 3) (c : ControlWord) (hr : x.Running) (hi : x.IdleFrom t)
    (hk : t.toNat + k = 8) (h1 : 1 ≤ k) : ticksToBoundary (2 * k) (x.setTiming .low t c) = x.endCycle := by
  induction k generalizing t c with
  | zero => omega
  | succ k ih =>
    have hw : x.wordAt t = 0 := hi t (by simp)
    have hy : executingPass (x.setTiming .high t 0) = x.setTiming .high (t + 1) 0 := executingPass_idle rfl
    have e1 := hostTick_micro c hr hw rfl hy
    rw [show 2 * (k + 1) = (2 * k + 1) + 1 by omega, ticksToBoundary_high (2 * k + 1) hr e1]
    by_cases h7 : k = 0
    · subst h7
      have ht : t + 1 = 0 := by
        have : t.toNat = 7 := by omega
        apply BitVec.eq_of_toNat_eq
        simp [this]
      rw [ht]
      have e2 := hostTick_latch 0 hr x.wordAt_zero rfl
      exact (ticksToBoundary_boundary 0 (by rw [e2]; exact ⟨rfl, rfl⟩)).trans e2
    · have htn : (t + 1).toNat = t.toNat + 1 := by
        rw [BitVec.toNat_add]
        simp
        omega
      have hne : t + 1 ≠ 0 := by
        intro e
        rw [e] at htn
        simp at htn
      have hle : ∀ t' : BitVec 3, t + 1 ≤ t' → t ≤ t' := by
        intro t' ht
        rw [BitVec.le_def] at ht ⊢
        omega
      rw [ticksToBoundary_low (2 * k) 0 hr hne (hi (t + 1) (hle _ (by simp))) rfl]
      exact ih (t + 1) 0 (fun t' ht => hi t' (hle t' ht)) (by omega) (by omega)

/-- The operand on the Bus has the operand's value (R59). -/
@[simp] theorem operandByte_toNat (n : Nibble) : (operandByte n).toNat = n.toNat := by
  simp only [operandByte, BitVec.toNat_setWidth]
  omega

variable {f m : State} {n : Nibble}

/-- T2 of LDA, ADD, SUB and STA: MAR takes the operand (R120 to R123). -/
theorem pass_operandAddress (hn : irOperand f.ir = n) : executingPass (f.setTiming .high 2 0x0012) =
    ((f.setMar (operandByte n)).setBus (operandByte n)).setTiming .high 3 0x0012 := by
  subst hn
  exact executingPass_operandAddress rfl

/-- T2 of LDI: A takes the operand (R124). -/
theorem pass_immediateA (hn : irOperand f.ir = n) : executingPass (f.setTiming .high 2 0x0050) =
    ((f.setA (operandByte n)).setBus (operandByte n)).setTiming .high 3 0x0050 := by
  subst hn
  exact executingPass_immediateA rfl

/-- T2 of a taken jump: PC takes the operand (R125). -/
theorem pass_jump (hn : irOperand f.ir = n) : executingPass (f.setTiming .high 2 0x4010) =
    ((f.setPc (operandByte n)).setBus (operandByte n)).setTiming .high 3 0x4010 := by
  subst hn
  exact executingPass_jump rfl

/-- T2 of OUT: OUT takes A (R128). -/
theorem pass_outputA : executingPass (f.setTiming .high 2 0x0880) =
    ((f.setOut f.a).setBus f.a).setTiming .high 3 0x0880 :=
  executingPass_outputA rfl

theorem inRam_setTiming (hm : m.mar = operandByte n) (hn : m.InRam n.toNat) (w : ControlWord) :
    (m.setTiming .high 3 w).InRam (m.setTiming .high 3 w).mar.toNat := by
  simpa [State.InRam, hm] using hn

/-- T3 of LDA: A takes the low byte of the cell (R120). -/
theorem pass_loadA (hm : m.mar = operandByte n) (hn : m.InRam n.toNat) : executingPass (m.setTiming .high 3 0x0048) =
    ((m.setA (m.operandInRam n)).setBus (m.operandInRam n)).setTiming .high 4 0x0048 := by
  have e := executingPass_loadA rfl (inRam_setTiming hm hn 0x0048)
  simpa [State.operandInRam, State.ramAt, hm] using e

/-- T3 of ADD and SUB: B takes the low byte of the cell (R121, R122). -/
theorem pass_loadB (hm : m.mar = operandByte n) (hn : m.InRam n.toNat) : executingPass (m.setTiming .high 3 0x0408) =
    ((m.setB (m.operandInRam n)).setBus (m.operandInRam n)).setTiming .high 4 0x0408 := by
  have e := executingPass_loadB rfl (inRam_setTiming hm hn 0x0408)
  simpa [State.operandInRam, State.ramAt, hm] using e

/-- T3 of STA: the cell takes A (R123). -/
theorem pass_storeA (hm : m.mar = operandByte n) (hn : m.InRam n.toNat) : executingPass (m.setTiming .high 3 0x0084) =
    ((m.writeCell n.toNat (m.a.setWidth 16)).setBus m.a).setTiming .high 4 0x0084 := by
  have e := executingPass_storeA rfl (inRam_setTiming hm hn 0x0084)
  simpa [hm] using e

/-- T4 of ADD (R121). -/
theorem pass_addA {v : Byte} (hb : m.b = v) :
    executingPass (m.setTiming .high 4 0x8140) = (m.accumulate v false).setTiming .high 5 0x8140 := by
  subst hb
  exact executingPass_addA rfl

/-- T4 of SUB (R122). -/
theorem pass_subA {v : Byte} (hb : m.b = v) :
    executingPass (m.setTiming .high 4 0x8340) = (m.accumulate v true).setTiming .high 5 0x8340 := by
  subst hb
  exact executingPass_subA rfl

/-- T3 of LDA, ADD, SUB and STA when the operand names no cell (R117, R133). -/
theorem pass_operandFault (hm : m.mar = operandByte n) (hn : ¬ m.InRam n.toNat) {w : ControlWord}
    (hc : contends w = false) (ha : accessesRam w = true) :
    executingPass (m.setTiming .high 3 w) = (m.setTiming .high 3 w).raiseFault .outOfRange :=
  executingPass_outOfRange hc ha (by simpa [State.InRam, hm] using hn)

/-- IR after the fetch holds the instruction's opcode and operand. -/
@[simp] theorem fetchInstr_opcode (s : State) (i : Instr) : irOpcode (s.fetchInstr (encode s.hltOpcode i)).ir = i.opcode s.hltOpcode :=
  irOpcode_encode s.hltOpcode i
@[simp] theorem fetchInstr_operand (s : State) (i : Instr) : irOperand (s.fetchInstr (encode s.hltOpcode i)).ir = i.operand :=
  irOperand_encode s.hltOpcode i

end Sys2Proof.Machine
end

