-- ==== Sys2Proof/Laws/Meaning.lean ====
section
/-! SUPPORT. Laws/Meaning.lean: everything the shared operations of the meanings can do, one lemma per case of `cycle` and
of `State.atOperand`. -/

namespace Sys2Proof.Machine

variable {i : Instr} {effect : State → State} {s : State}

/-- A meaning after a fault (R133). -/
theorem cycle_of_fault {k : FaultKind} (h : s.fault = some k) : cycle i effect s = .fault (.engineFaulted k) := by
  unfold cycle
  rw [h]

/-- A meaning in a frozen continuous run (R65). -/
theorem cycle_of_frozen (h : s.fault = none) (hz : s.Frozen) : cycle i effect s = .next s := by
  unfold cycle
  rw [h]
  exact if_pos hz

/-- A meaning at the start of a cycle of the reference firmware: the fetch, then the instruction's own effect (R116). -/
theorem cycle_of_ready (h : s.Ready) : cycle i effect s = .next (effect (s.fetchInstr (encode s.hltOpcode i))) := by
  obtain ⟨hf, hc, hz, hr, hin⟩ := h
  unfold cycle
  rw [hf]
  simp only []
  rw [if_neg hz, if_pos ⟨hc, hr⟩, if_pos hin]

/-- A meaning whose fetch reads no RAM cell (R117). -/
theorem cycle_of_fetchFault (hf : s.fault = none) (hc : s.AtCycleStart) (hz : ¬ s.Frozen) (hr : s.HasReferenceFirmware)
    (hin : ¬ s.InRam s.pc.toNat) : cycle i effect s = .next s.fetchFault := by
  unfold cycle
  rw [hf]
  simp only []
  rw [if_neg hz, if_pos ⟨hc, hr⟩, if_neg hin]

/-- A meaning elsewhere is the tick level with the instruction standing at PC (log 8). -/
theorem cycle_of_elsewhere (hf : s.fault = none) (hz : ¬ s.Frozen) (h : ¬ (s.AtCycleStart ∧ s.HasReferenceFirmware)) :
    cycle i effect s = .next (runCycle (s.placeInstr (encode s.hltOpcode i))) := by
  unfold cycle
  rw [hf]
  simp only []
  rw [if_neg hz, if_neg h]

/-- Everything a meaning can do at the start of a cycle of the reference firmware when it answers a next state. -/
theorem cycle_cases {t : State} (hc : s.AtCycleStart) (hr : s.HasReferenceFirmware) (h : cycle i effect s = .next t) :
    s.fault = none ∧ (s.Frozen ∧ t = s ∨ s.Ready ∧ t = effect (s.fetchInstr (encode s.hltOpcode i)) ∨
      ¬ s.InRam s.pc.toNat ∧ t = s.fetchFault) := by
  cases hf : s.fault with
  | some k => rw [cycle_of_fault hf] at h; cases h
  | none =>
    refine ⟨rfl, ?_⟩
    by_cases hz : s.Frozen
    · rw [cycle_of_frozen hf hz] at h
      cases h
      exact .inl ⟨hz, rfl⟩
    · by_cases hin : s.InRam s.pc.toNat
      · rw [cycle_of_ready ⟨hf, hc, hz, hr, hin⟩] at h
        cases h
        exact .inr (.inl ⟨⟨hf, hc, hz, hr, hin⟩, rfl⟩)
      · rw [cycle_of_fetchFault hf hc hz hr hin] at h
        cases h
        exact .inr (.inr ⟨hin, rfl⟩)

/-- The operand step when the operand names a RAM cell (R120 to R123). -/
theorem State.atOperand_of_inRam {n : Nibble} (w : ControlWord) (h : s.InRam n.toNat) :
    s.atOperand n w effect = effect ((s.setMar (operandByte n)).setBus (operandByte n)) :=
  if_pos h

/-- The operand step when it does not (R117). -/
theorem State.atOperand_of_outside {n : Nibble} (w : ControlWord) (h : ¬ s.InRam n.toNat) : s.atOperand n w effect =
    ((((s.setMar (operandByte n)).setBus (operandByte n)).setTiming .high 3 w).raiseFault .outOfRange) :=
  if_neg h

end Sys2Proof.Machine
end

