-- ==== Sys2Proof/Tests/Slice0.lean ====
section
/-! SUPPORT. Tests/Slice0.lean: the vectors of spec/95_test_vectors.md on the model, and for each obligation with hypotheses a
witness that meets them. Expected values are the spec's. -/

namespace Sys2Proof.Tests

open Sys2Proof Sys2Proof.Machine

/-- The reset state with HALT LOW, the host running continuously. -/
def running : State := { State.reset with halt := .low }

/-- A start state of L2.6: the instruction standing at `pc`. -/
def start (pc a : Byte) (flags : BitVec 2) (ram : Mem 16) : State := { running with pc := pc, a := a, flags := flags, ram := ram }

/-- The same with a RAM of `n` cells. -/
def small (n : Nat) (pc : Byte) : State := { running with pc := pc, ramSize := n }

/-- The state with the word `w` at the ROM address the state selects, and zero words elsewhere (L2.4). -/
def withWord (w : ControlWord) (s : State) : State :=
  { s with
    romA := Mem.write [] s.romAddress.toNat (lowByte w)
    romB := Mem.write [] s.romAddress.toNat (highByte w) }

/-- A test of the next state an outcome gives. -/
def nextIs (o : Host.Outcome State Fault Refusal) (p : State → Bool) : Bool :=
  match o with
  | .next t => p t
  | .fault _ => false
  | .refused _ => false

theorem running_firmware : running.HasReferenceFirmware := ⟨rfl, rfl⟩

theorem start_ready (pc a : Byte) (f : BitVec 2) (m : Mem 16) : (start pc a f m).Ready := by
  refine ⟨rfl, ⟨rfl, rfl⟩, ?_, running_firmware, ?_⟩
  · rintro ⟨-, h⟩
    cases h
  · show pc.toNat < 512
    omega

theorem small_ready {n : Nat} {pc : Byte} (h : pc.toNat < n) : (small n pc).Ready := by
  refine ⟨rfl, ⟨rfl, rfl⟩, ?_, running_firmware, h⟩
  rintro ⟨-, h⟩
  cases h

theorem single_ready (pc a : Byte) (f : BitVec 2) (m : Mem 16) :
    ({ start pc a f m with drive := .singleStep } : State).Ready := by
  refine ⟨rfl, ⟨rfl, rfl⟩, ?_, running_firmware, ?_⟩
  · rintro ⟨h, -⟩
    cases h
  · show pc.toNat < 512
    omega

/-- A machine built with HLT opcode 10 and the reference firmware of that opcode, running. -/
def otherHlt : State := { State.fresh .ten 512 1 (referenceBankA .ten) (referenceBankB .ten) with halt := .low }

theorem otherHlt_ready : otherHlt.Ready := by
  refine ⟨rfl, ⟨rfl, rfl⟩, ?_, ⟨rfl, rfl⟩, by decide⟩
  rintro ⟨-, h⟩
  cases h

/-! Well-formedness: each check of R63 refuses an ill-formed term (L2.3). -/

theorem test_wellFormed_operandTooLarge : (SourceForm.mk .ldi (some 16)).wellFormed = false := by decide
theorem test_wellFormed_operandNotTaken : (SourceForm.mk .nop (some 0)).wellFormed = false := by decide
theorem test_wellFormed_operandMissing : (SourceForm.mk .lda none).wellFormed = false := by decide
theorem test_assemble_refused : assemble .fifteen ⟨.ldi, some 16⟩ = none := by decide
theorem test_assemble_largestOperand : assemble .fifteen ⟨.ldi, some 15⟩ = some 0x5F := by decide

/-! Decoding: one word per opcode, written out from R58 and R60, and the assembly words of L2.3. -/

theorem test_decode_nop : decode .fifteen 0b00000101 = .nop 5 := by decide
theorem test_decode_lda : decode .fifteen 0b00011110 = .lda 14 := by decide
theorem test_decode_add : decode .fifteen 0b00101111 = .add 15 := by decide
theorem test_decode_sub : decode .fifteen 0b00111111 = .sub 15 := by decide
theorem test_decode_sta : decode .fifteen 0b01001111 = .sta 15 := by decide
theorem test_decode_ldi : decode .fifteen 0b01011010 = .ldi 10 := by decide
theorem test_decode_jmp : decode .fifteen 0b01100001 = .jmp 1 := by decide
theorem test_decode_jc : decode .fifteen 0b01110101 = .jc 5 := by decide
theorem test_decode_jz : decode .fifteen 0b10000100 = .jz 4 := by decide
theorem test_decode_out : decode .fifteen 0b10011001 = .out 9 := by decide
theorem test_decode_10 : decode .fifteen 0b10100111 = .unassigned10 7 := by decide
theorem test_decode_11 : decode .fifteen 0b10110001 = .unassigned11 1 := by decide
theorem test_decode_12 : decode .fifteen 0b11000010 = .unassigned12 2 := by decide
theorem test_decode_13 : decode .fifteen 0b11010100 = .unassigned13 4 := by decide
theorem test_decode_14 : decode .fifteen 0b11101000 = .unassigned14 8 := by decide
theorem test_decode_hlt : decode .fifteen 0b11110011 = .hlt 3 := by decide
theorem test_decode_otherHlt : decode .ten 0b10100111 = .hlt 7 ∧ decode .ten 0b11110001 = .unassigned10 1 ∧
    decode .ten 0b10110010 = .unassigned11 2 := by decide
theorem test_decode_upperByteIgnored : decodeCell .fifteen 0xFF5A = .ldi 10 := by decide
theorem test_decodeTableWord : decodeTableWord 8 0x2F = some (.add 15) := by decide
theorem test_assemble_otherHlt : assemble .twelve ⟨.hlt, none⟩ = some 0xC0 := by decide
theorem test_assemble_L2_3 :
    [assemble .fifteen ⟨.nop, none⟩, assemble .fifteen ⟨.lda, some 14⟩, assemble .fifteen ⟨.sub, some 15⟩, assemble .fifteen ⟨.jmp, some 1⟩,
      assemble .fifteen ⟨.jz, some 4⟩, assemble .fifteen ⟨.out, none⟩, assemble .fifteen ⟨.hlt, none⟩] =
    [some 0x00, some 0x1E, some 0x3F, some 0x61, some 0x84, some 0x90, some 0xF0] := by decide

/-! Control words and ROM addresses (L2.1, L2.2), and the checksum of R112. -/

theorem test_signals_fetchWords : ofSignals [.mi, .co] = 0x2002 ∧ ofSignals [.ro, .ii, .ce] = 0x1028 := by decide
theorem test_signals_subWord : ofSignals [.eo, .ai, .su, .fi] = 0x8340 := by decide
theorem test_romAddress_jzTaken : romAddress 0b10 8 2 = 322 := by decide
theorem test_romAddress_last : romAddress 0b11 15 7 = 511 := by decide
theorem test_reference_jcRows : referenceRom .fifteen 186 = 0x4010 ∧ referenceRom .fifteen 58 = 0 := by decide
theorem test_reference_hlt : referenceRom .fifteen 506 = 0x0001 := by decide
theorem test_reference_otherHlt : referenceRom .ten 82 = 0x0001 ∧ referenceRom .ten 122 = 0 := by decide
theorem test_reference_sum : ((List.range 512).map fun a => (referenceRom .fifteen a).toNat).sum = 1205460 := by decide +kernel
theorem test_parseLine : parseLine "1000001101000000".toList = some 0x8340 := by decide
theorem test_parseLine_tooShort : parseLine "001000000000001".toList = none := by decide
theorem test_parseLine_badCharacter : parseLine "00100000000000x2".toList = none := by decide
theorem test_load_threeLines :
    (loadFirmware (some ["# c".toList, "0010000000000010".toList, [], "0001000000101000".toList,
      "1000001101000000".toList])).map (fun r => [romRead r.1 r.2 0, romRead r.1 r.2 1, romRead r.1 r.2 2, romRead r.1 r.2 3]) =
    some [0x2002, 0x1028, 0x8340, 0] := by decide +kernel

/-! The ALU (L1.5, L2.5). -/

theorem test_alu_source : aluCompute 250 10 false = ⟨4, false, true⟩ ∧ aluCompute 5 5 true = ⟨0, true, true⟩ := by decide
theorem test_alu_sums : aluCompute 0 0 false = ⟨0, true, false⟩ ∧ aluCompute 128 128 false = ⟨0, true, true⟩ ∧
    aluCompute 255 255 false = ⟨254, false, true⟩ ∧ aluCompute 255 0 false = ⟨255, false, false⟩ := by decide
theorem test_alu_differences : aluCompute 0 1 true = ⟨255, false, false⟩ ∧ aluCompute 5 10 true = ⟨251, false, false⟩ ∧
    aluCompute 7 0 true = ⟨7, false, true⟩ ∧ aluCompute 1 255 true = ⟨2, false, false⟩ := by decide

/-! One HIGH tick per control-signal vector (L2.4). -/

def s1 : State := withWord 0x2002 { running with pc := 7 }
def s3 : State := withWord 0x004A { running with mar := 3, bus := 5, ram := [(3, 7), (7, 9)] }
def s4 : State := withWord 0x008C { running with mar := 4, a := 33, ram := [(4, 0x1FF)] }
def s5 : State := withWord 0x000C { running with mar := 4, bus := 77, ram := [(4, 5)] }
def s6 : State := withWord 0x0030 { running with ir := 0x5A }
def s7 : State := withWord 0x5010 { running with ir := 0x63, pc := 9 }
def s8 : State := withWord 0x6002 { running with pc := 9 }
def s9 : State := withWord 0x8000 { running with flags := 0b01, aluZ := true }
def s10 : State := withWord 0x0040 { running with bus := 99, a := 1 }
def s11 : State := withWord 0x0540 { running with a := 3, b := 4 }
def s12 : State := withWord 0x00C0 { running with a := 8 }
def s13 : State := withWord 0x0300 { running with a := 3, b := 4 }
def s14 : State := withWord 0x8200 { running with a := 3, b := 4, aluC := true }
def s15 : State := withWord 0x0018 { running with ir := 0x11 }
def s16 : State := withWord 0x3000 { running with pc := 255 }
def s17 : State := withWord 0x0881 { running with a := 21 }
def s19 : State := withWord 0x0048 { running with mar := 5, ram := [(5, 0x1F3)] }
def s20 : State := withWord 0x8140 { running with a := 250, b := 10 }
/-- A pass under the word `w` at MAR `m`, with 128 cells of RAM. -/
def passAt (w : ControlWord) (m : Byte) : State := { running with cw := w, mar := m, ramSize := 128 }
def sOut : State := withWord 0x0048 { running with mar := 128, ramSize := 128 }

theorem test_S1 : (tick true s1).bus = 7 ∧ (tick true s1).mar = 7 ∧ (tick true s1).t = 1 ∧ (tick true s1).phase = .high := by decide
theorem test_S3 : (tick true s3).bus = 7 ∧ (tick true s3).a = 7 ∧ (tick true s3).mar = 7 := by decide
theorem test_S4 : (tick true s4).bus = 33 ∧ (tick true s4).ram = [(4, 0x0021)] := by decide
theorem test_S5 : (tick true s5).bus = 77 ∧ (tick true s5).ram = [(4, 77)] := by decide
theorem test_S6 : (tick true s6).bus = 10 ∧ (tick true s6).ir = 0x5A := by decide
theorem test_S7 : (tick true s7).bus = 3 ∧ (tick true s7).pc = 4 := by decide
theorem test_S8 : (tick true s8).bus = 9 ∧ (tick true s8).mar = 9 ∧ (tick true s8).pc = 9 := by decide
theorem test_S9 : (tick true s9).flags = 0b10 := by decide
theorem test_S10 : (tick true s10).a = 99 ∧ (tick true s10).bus = 99 := by decide
theorem test_S11 : (tick true s11).bus = 7 ∧ (tick true s11).a = 7 ∧ (tick true s11).b = 7 ∧ (tick true s11).aluRes = 7 := by decide
theorem test_S12 : (tick true s12).bus = 8 ∧ (tick true s12).a = 8 := by decide
theorem test_S13 : (tick true s13).bus = 255 ∧ (tick true s13).a = 3 ∧ (tick true s13).aluC = false := by decide
theorem test_S14 : (tick true s14).flags = 0b01 ∧ (tick true s14).aluC = true := by decide
theorem test_S15 : tick true s15 = { s15 with phase := .high, cw := 0x0018, fault := some .busContention } := by decide
theorem test_S16 : (tick true s16).bus = 255 ∧ (tick true s16).pc = 0 := by decide
theorem test_S17 : (tick true s17).halt = .high ∧ (tick true s17).out = 21 ∧ (tick true s17).bus = 21 := by decide
theorem test_S19 : (tick true s19).bus = 0xF3 ∧ (tick true s19).a = 243 := by decide
theorem test_S20 : (tick true s20).a = 4 ∧ (tick true s20).flags = 0b01 := by decide
theorem test_S23 : tick true { s20 with phase := .high } = { s20 with cw := 0x8140 } := by decide
theorem test_F9_faultState : tick true sOut = { sOut with phase := .high, cw := 0x0048, fault := some .outOfRange } := by decide
theorem test_H4 : tick false { s1 with halt := .high } = { s1 with halt := .high } := by decide

/-! One instruction cycle per instruction vector (L2.6), at the instruction level. -/

theorem test_I1_nop : nextIs (exec (.nop 0) (start 3 0 0 [])) (fun t =>
    t.pc == 4 && t.mar == 3 && t.bus == 0 && t.cw == 0x2002) = true := by
  simp only [exec, execNop]
  rw [cycle_of_ready (start_ready 3 0 0 [])]
  decide
theorem test_I2_lda : nextIs (exec (.lda 14) (start 2 0 0 [(2, 0x1E), (14, 0x2A)])) (fun t =>
    t.a == 42 && t.mar == 14 && t.pc == 3 && t.bus == 42 && t.ir == 0x1E) = true := by
  simp only [exec, execLda]
  rw [cycle_of_ready (start_ready 2 0 0 [(2, 0x1E), (14, 0x2A)])]
  decide
theorem test_lda_lowByteOnly : nextIs (exec (.lda 14) (start 0 0 0 [(14, 0x1F3)])) (fun t => t.a == 243) = true := by
  simp only [exec, execLda]
  rw [cycle_of_ready (start_ready 0 0 0 [(14, 0x1F3)])]
  decide
theorem test_I4_addCarry : nextIs (exec (.add 15) (start 3 250 0 [(15, 10)])) (fun t =>
    t.a == 4 && t.b == 10 && t.flags == 0b01 && t.aluRes == 4 && t.aluC && t.mar == 15 && t.pc == 4) = true := by
  simp only [exec, execAdd]
  rw [cycle_of_ready (start_ready 3 250 0 [(15, 10)])]
  decide
theorem test_I5_addZero : nextIs (exec (.add 15) (start 3 128 0 [(15, 128)])) (fun t =>
    t.a == 0 && t.b == 128 && t.flags == 0b11) = true := by
  simp only [exec, execAdd]
  rw [cycle_of_ready (start_ready 3 128 0 [(15, 128)])]
  decide
theorem test_I6_sub : nextIs (exec (.sub 15) (start 3 10 0 [(15, 5)])) (fun t =>
    t.a == 5 && t.b == 5 && t.flags == 0b01) = true := by
  simp only [exec, execSub]
  rw [cycle_of_ready (start_ready 3 10 0 [(15, 5)])]
  decide
theorem test_I8_subBorrow : nextIs (exec (.sub 15) (start 3 5 0 [(15, 10)])) (fun t =>
    t.a == 251 && t.flags == 0b00) = true := by
  simp only [exec, execSub]
  rw [cycle_of_ready (start_ready 3 5 0 [(15, 10)])]
  decide
theorem test_I9_sta : nextIs (exec (.sta 15) (start 1 10 0 [(1, 0x4F), (15, 0x1FF)])) (fun t =>
    t.ram == [(1, 0x4F), (15, 10)] && t.mar == 15 && t.pc == 2 && t.bus == 10) = true := by
  simp only [exec, execSta]
  rw [cycle_of_ready (start_ready 1 10 0 [(1, 0x4F), (15, 0x1FF)])]
  decide
theorem test_sta_zeroLeavesNoEntry : nextIs (exec (.sta 1) (start 1 0 0 [(1, 0x41)])) (fun t => t.ram == []) = true := by
  simp only [exec, execSta]
  rw [cycle_of_ready (start_ready 1 0 0 [(1, 0x41)])]
  decide
theorem test_I10_ldi : nextIs (exec (.ldi 10) (start 0 0 0 [])) (fun t =>
    t.a == 10 && t.pc == 1 && t.mar == 0 && t.bus == 10) = true := by
  simp only [exec, execLdi]
  rw [cycle_of_ready (start_ready 0 0 0 [])]
  decide
theorem test_I11_jmp : nextIs (exec (.jmp 1) (start 4 0 0 [])) (fun t => t.pc == 1 && t.mar == 4 && t.bus == 1) = true := by
  simp only [exec, execJmp]
  rw [cycle_of_ready (start_ready 4 0 0 [])]
  decide
theorem test_I12_jcTaken : nextIs (exec (.jc 5) (start 2 0 0b01 [])) (fun t => t.pc == 5 && t.bus == 5) = true := by
  simp only [exec, execJc]
  rw [cycle_of_ready (start_ready 2 0 0b01 [])]
  decide
theorem test_I13_jcNotTaken : nextIs (exec (.jc 5) (start 2 0 0b10 [])) (fun t => t.pc == 3 && t.bus == 0x75) = true := by
  simp only [exec, execJc]
  rw [cycle_of_ready (start_ready 2 0 0b10 [])]
  decide
theorem test_I14_jzTaken : nextIs (exec (.jz 5) (start 2 0 0b10 [])) (fun t => t.pc == 5 && t.bus == 5) = true := by
  simp only [exec, execJz]
  rw [cycle_of_ready (start_ready 2 0 0b10 [])]
  decide
theorem test_I15_jzNotTaken : nextIs (exec (.jz 5) (start 2 0 0b01 [])) (fun t => t.pc == 3 && t.bus == 0x85) = true := by
  simp only [exec, execJz]
  rw [cycle_of_ready (start_ready 2 0 0b01 [])]
  decide
theorem test_I16_out : nextIs (exec (.out 0) (start 4 15 0 [])) (fun t =>
    t.out == 15 && t.pc == 5 && t.mar == 4 && t.bus == 15) = true := by
  simp only [exec, execOut]
  rw [cycle_of_ready (start_ready 4 15 0 [])]
  decide
theorem test_I17_hltSingleStep : nextIs (exec (.hlt 0) { start 5 0 0 [] with drive := .singleStep }) (fun t =>
    t.halt == .high && t.pc == 6 && t.t == 0 && t.cw == 0x2002 && t.bus == 0xF0) = true := by
  simp only [exec, execHlt]
  rw [cycle_of_ready (single_ready 5 0 0 [])]
  decide
theorem test_I18_hltContinuous : nextIs (exec (.hlt 0) (start 5 0 0 [])) (fun t =>
    t.halt == .high && t.phase == .low && t.t == 2 && t.cw == 0x0001 && t.pc == 6 && t.mar == 5 && t.bus == 0xF0) = true := by
  simp only [exec, execHlt]
  rw [cycle_of_ready (start_ready 5 0 0 [])]
  decide
theorem test_I19_unassigned10 : nextIs (exec (.unassigned10 7) (start 3 0 0 [])) (fun t =>
    t.pc == 4 && t.mar == 3 && t.bus == 0xA7 && t.ir == 0xA7) = true := by
  simp only [exec, execUnassigned10]
  rw [cycle_of_ready (start_ready 3 0 0 [])]
  decide
theorem test_hlt_otherOpcode : nextIs (exec (.hlt 0) otherHlt) (fun t => t.halt == .high && t.ir == 0xA0) = true := by
  simp only [exec, execHlt]
  rw [cycle_of_ready otherHlt_ready]
  decide
theorem test_unassigned_otherOpcode : nextIs (exec (.unassigned10 7) otherHlt) (fun t =>
    t.halt == .low && t.ir == 0xF7 && t.pc == 1) = true := by
  simp only [exec, execUnassigned10]
  rw [cycle_of_ready otherHlt_ready]
  decide
theorem test_I20_jmpAtTop : nextIs (exec (.jmp 15) (start 255 0 0 [])) (fun t => t.pc == 15 && t.mar == 255) = true := by
  simp only [exec, execJmp]
  rw [cycle_of_ready (start_ready 255 0 0 [])]
  decide
theorem test_I21_nopAtTop : nextIs (exec (.nop 0) (start 255 0 0 [])) (fun t => t.pc == 0 && t.mar == 255) = true := by
  simp only [exec, execNop]
  rw [cycle_of_ready (start_ready 255 0 0 [])]
  decide

/-! The same cycle tick by tick (L1.6, L2.6, L2.8), and the step of a fetched word. -/

theorem test_I4_byTicks :
    (runCycle (start 3 250 0 [(3, 0x2F), (15, 10)])).a = 4 ∧ (runCycle (start 3 250 0 [(3, 0x2F), (15, 10)])).flags = 0b01 := by
  decide +kernel
theorem test_I18_byTicks :
    (ticks 4 (start 5 0 0 [(5, 0xF0)])).Frozen ∧ (ticks 4 (start 5 0 0 [(5, 0xF0)])).cw = 0x0001 := by decide +kernel
theorem test_L1_7_afterSevenTicks :
    (ticks 7 (start 0 0 0 [(0, 0x5A)])).phase = .high ∧ (ticks 7 (start 0 0 0 [(0, 0x5A)])).t = 4 ∧
    (ticks 7 (start 0 0 0 [(0, 0x5A)])).a = 10 := by decide +kernel
theorem test_hlt_otherOpcode_byTicks :
    (ticks 4 (otherHlt.writeCell 0 0xA0)).Frozen ∧ (ticks 4 (otherHlt.writeCell 0 0xF0)).halt = .low := by decide +kernel
theorem test_instructionStep_hlt :
    (instructionStep (start 0 0 0 [(0, 0xF0)])).t = 2 ∧ (instructionStep (start 0 0 0 [(0, 0xF0)])).cw = 0x0001 := by
  decide +kernel
theorem test_step_placedWord : nextIs (step (State.reset.withFetchWord 8 0x5A)) (fun t => t.a == 10 && t.pc == 1) = true := by
  decide +kernel
theorem test_step_reset_waits : nextIs (step State.reset) (fun t => t == State.reset) = true := by decide +kernel
theorem test_core : core.reset = State.reset := rfl

/-! Host operations (L1.3, L2.9). -/

theorem test_F2 : nextIs (setFrequency 10 running) (fun t => t.freq == 10) = true := by decide
theorem test_F4 : loadProgram [0x10000] running = .refused .wordOutOfRange := rfl
theorem test_F5 : nextIs (loadProgram [1, 2] { running with ram := [(2, 9)] }) (fun t => t.ram == [(0, 1), (1, 2), (2, 9)]) = true := by
  decide
theorem test_F6 : highestNonZeroAddress { running with ramSize := 8, ram := [(0, 1), (1, 2), (2, 9)] } = some 2 ∧
    highestNonZeroAddress { running with ramSize := 8 } = none := by decide
theorem test_F7 : (hostReset { running with fault := some .outOfRange }).fault = some .outOfRange := rfl
theorem test_L1_3 : (hostReset { running with a := 5, ram := [(0, 1), (1, 2), (2, 3)] }).ram = [] := rfl
theorem test_reset_memories : State.reset.MemoriesWf := by decide +kernel

/-! Witnesses: concrete states and operands that meet the hypotheses of the obligations, clause by clause. -/

theorem test_witness_AssemblerForms :
    (Mnemonic.nop, 0) ∈ [(Mnemonic.nop, 0), (.out, 9), (.hlt, HltOpcode.fifteen.value.toNat)] ∧
    (Mnemonic.jz, 8) ∈ [(Mnemonic.lda, 1), (.add, 2), (.sub, 3), (.sta, 4), (.ldi, 5), (.jmp, 6), (.jc, 7), (.jz, 8)] ∧
    assemble .fifteen ⟨.jz, some 15⟩ = some 0x8F ∧ assemble .fifteen ⟨.jz, some 16⟩ = none := by decide
theorem test_witness_RomAddressOneToOne : romAddress 3 15 7 = romAddress 3 15 7 := rfl
theorem test_witness_ControlWordSignals :
    (∀ x, sig 0x2002 x = sig 0x2002 x) ∧ s15.fault = none ∧ s15.halt = .low ∧ s15.phase = .low ∧
    2 ≤ (drivers s15.fetchedWord).length := ⟨fun _ => rfl, by decide⟩
theorem test_witness_FirmwareLineFormat : ([] : Line) = [] ∧ ("# c".toList : Line).head? = some '#' ∧
    parseLine (List.replicate 16 '1') = some 0xFFFF ∧ parseLine (List.replicate 17 '1') = none := by decide
theorem test_witness_FirmwareRoundTrip : ([] : List ControlWord).length ≤ 512 ∧
    (List.replicate 512 (0x2002 : ControlWord)).length ≤ 512 := by
  rw [List.length_replicate]
  exact ⟨by decide, le_refl 512⟩
theorem test_witness_ConstructionLoadsFirmware : (0 : Rat) < 1 ∧
    (skipsLine "00x".toList = false ∧ parseLine "00x".toList = none) ∧
    512 < ((List.replicate 513 (List.replicate 16 '0')).filter fun l => !skipsLine l).length ∧
    ∃ romA romB, loadFirmware (some []) = some (romA, romB) :=
  ⟨by decide, by decide, by decide +kernel, _, _, rfl⟩
theorem test_witness_HaltFreezesContinuousTicks :
    ({ s1 with halt := .high } : State).halt = .high ∧ s1.fault = none := by decide
theorem test_witness_PhaseAlternates :
    (s1.fault = none ∧ s1.halt = .low) ∧ ({ s1 with halt := .high } : State).fault = none := by decide
theorem test_witness_EveryTickFetches :
    (s17.fault = none ∧ s17.halt = .low ∧ s17.phase = .low) ∧ ({ s17 with phase := .high } : State).phase = .high := by decide
theorem test_witness_LowTickExecutesNothing : ({ s1 with phase := .high } : State).phase = .high := rfl
theorem test_witness_StepIndexAdvances :
    (∀ s ∈ [s1, { s1 with t := 7 }, s10], s.fault = none ∧ s.halt = .low ∧ s.phase = .low ∧ (tick false s).fault = none) ∧
    (({ s1 with phase := .high } : State).fault = none) ∧ (tick false s15).fault ≠ none := by decide
theorem test_witness_HighTickResolvesBus :
    (∀ s ∈ [s1, s6, s12, s13, s19, s10], s.fault = none ∧ s.halt = .low ∧ s.phase = .low ∧ (tick false s).fault = none) ∧
    sig s1.fetchedWord .co = true ∧ sig s6.fetchedWord .io = true ∧ sig s12.fetchedWord .ao = true ∧
    sig s13.fetchedWord .eo = true ∧ (sig s19.fetchedWord .ro = true ∧ sig s19.fetchedWord .ri = false) ∧
    drivers s10.fetchedWord = [] := by decide
theorem test_witness_HighTickLoadsRegisters :
    ∀ s ∈ [s1, s3, s6, s7, s8, s11, s12, s16, s17], s.fault = none ∧ s.halt = .low ∧ s.phase = .low ∧
      (tick false s).fault = none := by decide
theorem test_witness_HighTickComputesFlags :
    (∀ s ∈ [s9, s13, s14, s20], s.fault = none ∧ s.halt = .low ∧ s.phase = .low ∧ (tick false s).fault = none) ∧
    sig s13.fetchedWord .eo = true ∧ sig s9.fetchedWord .eo = false ∧ sig s20.fetchedWord .fi = true ∧
    sig s13.fetchedWord .fi = false := by decide
theorem test_witness_TickStoresOnlyAtOldMar :
    s5.fault = none ∧ s5.halt = .low ∧ s5.phase = .low ∧ (tick false s5).fault = none ∧ sig s5.fetchedWord .ri = true := by decide
theorem test_witness_HighTickFaults :
    (s15.fault = none ∧ s15.halt = .low ∧ s15.phase = .low) ∧
    (sOut.fault = none ∧ sOut.halt = .low ∧ sOut.phase = .low ∧ sOut.ramSize ≤ sOut.mar.toNat ∧ contends sOut.fetchedWord = false) ∧
    (tick false { sOut with mar := 127 }).fault = none := by decide
theorem test_witness_RamPrimitives :
    (running.InRam 0 ∧ running.InRam 511) ∧
    (contends (passAt 0x0084 127).cw = false ∧ sig (passAt 0x0084 127).cw .ri = true ∧ (passAt 0x0084 127).InRam 127) ∧
    (contends (passAt 0x0048 127).cw = false ∧ sig (passAt 0x0048 127).cw .ri = false ∧ sig (passAt 0x0048 127).cw .ro = true) ∧
    ¬ (passAt 0x0048 128).InRam 128 := by decide
theorem test_witness_TwoTicksPerStep :
    s1.phase = .low ∧ (∀ k, k < 2 * 2 → ¬ (ticks k s1).Frozen) ∧ (ticks (2 * 2) s1).fault = none ∧ ¬ (ticks (2 * 2) s1).Frozen := by
  decide
theorem test_witness_FaultNeverCleared :
    ({ s1 with fault := some .busContention } : State).fault ≠ none ∧
    nextIs (hostOp .reset { s1 with fault := some .busContention }) (fun _ => true) = true ∧
    nextIs (hostOp (.loadProgram [1]) { s1 with fault := some .busContention }) (fun _ => true) = true := by decide
theorem test_witness_RomNeverWritten :
    nextIs (construct .fifteen 512 1 (some [])) (fun _ => true) = true ∧
    nextIs (hostOp (.tick true) s1) (fun _ => true) = true ∧ nextIs (hostOp (.setHaltInput .low) s1) (fun _ => true) = true ∧
    nextIs (exec (.nop 0) { s1 with halt := .high }) (fun _ => true) = true ∧
    nextIs (step { s1 with phase := .high }) (fun _ => true) = true := by decide +kernel
theorem test_witness_SetFrequency : (0 : Rat) < 10 ∧ (0 : Rat) ≤ 0 ∧ (-5 : Rat) ≤ 0 := by decide
theorem test_witness_FrequencyNeverRead : nextIs (step { s1 with phase := .high }) (fun _ => true) = true := by decide +kernel
theorem test_witness_HaltInputPausesAndResumes : s1.drive = .continuous ∧ s1.halt = .low := by decide
theorem test_witness_LoadProgramCopiesWords :
    ((∀ v ∈ [(0 : Int), 65535], 0 ≤ v ∧ v ≤ 65535) ∧ [(0 : Int), 65535].length ≤ (small 2 0).ramSize) ∧
    (small 2 0).ramSize < [(1 : Int), 2, 3].length ∧
    ((∃ v ∈ [(65536 : Int)], v < 0 ∨ 65535 < v) ∧ (∃ v ∈ [(-1 : Int)], v < 0 ∨ 65535 < v)) := by decide
theorem test_witness_FinalStateStays :
    State.reset.Final ∧ ({ State.reset with fault := some .outOfRange } : State).fault ≠ none :=
  ⟨⟨rfl, rfl, rfl⟩, by decide⟩
theorem test_witness_HltResumesAtSecondRequest :
    ∃ s : State, s.fault = none ∧ s.HasReferenceFirmware ∧ s.drive = .continuous ∧ s.halt = .high ∧ s.phase = .low ∧ s.t = 2 ∧
      irOpcode s.ir = s.hltOpcode.value :=
  ⟨{ State.reset with t := 2, ir := 0xF0, cw := 1, pc := 6 }, rfl, running_firmware, rfl, rfl, rfl, rfl, by decide⟩
theorem test_witness_InstructionStepRunsOneInstruction :
    ({ start 5 0 0 [(5, 0xF0)] with drive := .singleStep } : State).Ready ∧
    decodeCell .fifteen (({ start 5 0 0 [(5, 0xF0)] with drive := .singleStep } : State).ramAt 5) = .hlt 0 ∧
    ({ start 5 0 0 [(5, 0x1E)] with drive := .singleStep } : State).Ready ∧
    decodeCell .fifteen (({ start 5 0 0 [(5, 0x1E)] with drive := .singleStep } : State).ramAt 5) = .lda 14 :=
  ⟨single_ready 5 0 0 [(5, 0xF0)], by decide, single_ready 5 0 0 [(5, 0x1E)], by decide⟩
theorem test_witness_IdleInstructionsOnlyFetch : (start 255 0 0 []).Ready ∧
    (Instr.unassigned14 15, (14 : Nibble)) ∈ [(Instr.nop 15, 0), (.unassigned10 15, 10), (.unassigned11 15, 11),
      (.unassigned12 15, 12), (.unassigned13 15, 13), (.unassigned14 15, 14)] ∧
    (start 255 0 0 []).hltOpcode = .fifteen ∧ otherHlt.Ready ∧ otherHlt.hltOpcode = .ten :=
  ⟨start_ready 255 0 0 [], by decide, rfl, otherHlt_ready, rfl⟩
theorem test_witness_LdaLoadsAccumulator : (small 16 15).Ready ∧ (small 16 15).InRam (15 : Nibble).toNat :=
  ⟨small_ready (by decide), by decide⟩
theorem test_witness_AddAddsAndSetsFlags : (small 16 0).Ready ∧ (small 16 0).InRam (15 : Nibble).toNat ∧
    (0 : Byte) = ((small 16 0).ramAt (15 : Nibble).toNat).setWidth 8 :=
  ⟨small_ready (by decide), by decide, by decide⟩
theorem test_witness_SubSubtractsAndSetsFlags : (start 0 9 0 [(15, 0x1F3)]).Ready ∧
    (start 0 9 0 [(15, 0x1F3)]).InRam (15 : Nibble).toNat ∧
    (0xF3 : Byte) = ((start 0 9 0 [(15, 0x1F3)]).ramAt (15 : Nibble).toNat).setWidth 8 :=
  ⟨start_ready 0 9 0 [(15, 0x1F3)], by decide, by decide⟩
theorem test_witness_StaStoresAccumulator : (start 4 7 0 []).Ready ∧ (start 4 7 0 []).InRam (5 : Nibble).toNat ∧
    (start 4 7 0 []).pc + 1 = (5 : Nibble).setWidth 8 :=
  ⟨start_ready 4 7 0 [], by decide, by decide⟩
theorem test_witness_LdiLoadsImmediate : (small 1 0).Ready := small_ready (by decide)
theorem test_witness_JumpsLoadPc : (start 2 0 0b01 []).Ready ∧ (start 2 0 0b01 []).flags.getLsbD 0 = true ∧
    (start 2 0 0b01 []).flags.getLsbD 1 = false ∧
    (Instr.jc 5, (7 : Nibble), true) ∈ [(Instr.jmp 5, 6, true), (.jc 5, 7, true), (.jz 5, 8, false)] :=
  ⟨start_ready 2 0 0b01 [], by decide, by decide, by decide⟩
theorem test_witness_OutCopiesAccumulator : (start 4 15 0 []).Ready := start_ready 4 15 0 []
theorem test_witness_HltRequestsHalt : (start 5 0 0 []).Ready ∧ (start 5 0 0 []).drive = .continuous ∧
    ({ start 5 0 0 [] with drive := .singleStep } : State).Ready :=
  ⟨start_ready 5 0 0 [], rfl, single_ready 5 0 0 []⟩
theorem test_witness_FetchOutsideRamFaults : (small 128 128).fault = none ∧ (small 128 128).AtCycleStart ∧
    ¬ (small 128 128).Frozen ∧ (small 128 128).HasReferenceFirmware ∧ (small 128 128).ramSize ≤ (small 128 128).pc.toNat :=
  ⟨rfl, ⟨rfl, rfl⟩, by decide, running_firmware, by decide⟩
theorem test_witness_OperandOutsideRamFaults : (small 8 0).Ready ∧ (small 8 0).ramSize ≤ (8 : Nibble).toNat ∧
    (Instr.sta 8, (4 : Nibble), (0x0084 : ControlWord)) ∈
      [(Instr.lda 8, 1, 0x0048), (.add 8, 2, 0x0408), (.sub 8, 3, 0x0408), (.sta 8, 4, 0x0084)] :=
  ⟨small_ready (by decide), by decide, by decide⟩
theorem test_witness_FrozenAndFaultedStates :
    (State.reset.fault = none ∧ State.reset.drive = .continuous ∧ State.reset.halt = .high) ∧
    ({ State.reset with fault := some .outOfRange } : State).fault = some .outOfRange := ⟨⟨rfl, rfl, rfl⟩, rfl⟩
theorem test_witness_FrameIdleOutputJumpsAndHalt : (start 5 1 0b01 []).AtCycleStart ∧ (start 5 1 0b01 []).HasReferenceFirmware ∧
    Instr.jz 3 ∈ [Instr.nop 3, .unassigned10 3, .unassigned11 3, .unassigned12 3, .unassigned13 3, .unassigned14 3, .out 3,
      .hlt 3, .jmp 3, .jc 3, .jz 3] ∧ ∃ t, exec (.jz 3) (start 5 1 0b01 []) = .next t :=
  ⟨⟨rfl, rfl⟩, running_firmware, by decide, by
    simp only [exec, execJz]
    exact ⟨_, cycle_of_ready (start_ready 5 1 0b01 [])⟩⟩
theorem test_witness_FrameAccumulatorLoads : (start 5 1 0 []).AtCycleStart ∧ (start 5 1 0 []).HasReferenceFirmware ∧
    Instr.lda 3 ∈ [Instr.lda 3, .ldi 3] ∧ ∃ t, exec (.lda 3) (start 5 1 0 []) = .next t :=
  ⟨⟨rfl, rfl⟩, running_firmware, by decide, by
    simp only [exec, execLda]
    exact ⟨_, cycle_of_ready (start_ready 5 1 0 [])⟩⟩
theorem test_witness_FrameArithmetic : (start 5 1 0 []).AtCycleStart ∧ (start 5 1 0 []).HasReferenceFirmware ∧
    Instr.sub 3 ∈ [Instr.add 3, .sub 3] ∧ ∃ t, exec (.sub 3) (start 5 1 0 []) = .next t :=
  ⟨⟨rfl, rfl⟩, running_firmware, by decide, by
    simp only [exec, execSub]
    exact ⟨_, cycle_of_ready (start_ready 5 1 0 [])⟩⟩
theorem test_witness_FrameStore : (start 5 1 0 []).AtCycleStart ∧ (start 5 1 0 []).HasReferenceFirmware ∧
    (∃ t, exec (.sta 3) (start 5 1 0 []) = .next t) ∧
    nextIs (exec (.sta 8) (small 8 0)) (fun t => t.fault == some .outOfRange) = true := by
  refine ⟨⟨rfl, rfl⟩, running_firmware, ?_, ?_⟩ <;> simp only [exec, execSta]
  · exact ⟨_, cycle_of_ready (start_ready 5 1 0 [])⟩
  · rw [cycle_of_ready (small_ready (by decide))]
    decide
theorem test_witness_StepRunsDecodedInstruction :
    (s1.AtCycleStart ∧ s1.InRam s1.pc.toNat ∧ decodeCell .fifteen (s1.ramAt s1.pc.toNat) = .nop 0) ∧
    ¬ (({ s1 with phase := .high } : State).AtCycleStart ∧ ({ s1 with phase := .high } : State).InRam 7) := by decide
theorem test_witness_StepRefinesTicks : State.reset.fault = none ∧ s15.fault = none := ⟨rfl, rfl⟩
theorem test_witness_StepKeepsWellFormedState :
    State.reset.Inv ∧ nextIs (step (State.reset.withFetchWord 8 0x43)) (fun _ => true) = true := by decide +kernel
theorem test_witness_HostOperationsKeepWellFormedState :
    State.reset.Inv ∧ nextIs (hostOp (.loadProgram [1, 0, 2]) State.reset) (fun _ => true) = true ∧
    nextIs (exec (.nop 0) State.reset) (fun _ => true) = true := by decide +kernel
theorem test_witness_ReferenceFirmwareNeverFaults :
    (small 256 255).fault = none ∧ (small 256 255).HasReferenceFirmware ∧ 256 ≤ (small 256 255).ramSize :=
  ⟨rfl, running_firmware, by decide⟩
theorem test_witness_DatapathKeepsUpperRam : (256 : Nat) ≤ 256 ∧
    nextIs (exec (.nop 0) { s1 with halt := .high }) (fun _ => true) = true ∧
    nextIs (step { s1 with phase := .high }) (fun _ => true) = true := by decide +kernel

end Sys2Proof.Tests
end

section
/-! PROOFS. The phase over a tick (spec/10_state.md R26). -/

namespace Sys2Proof.Machine

/-- The executing pass never writes PHASE, whether it faults or commits. -/
@[simp] theorem executingPass_phase (s : State) : (executingPass s).phase = s.phase := by
  unfold executingPass
  split
  · exact s.raiseFault_phase _
  · split
    · exact s.raiseFault_phase _
    · exact commit_phase s

/-- The condition under which ticks run (single-step, or HALT LOW) excludes the frozen tick of R65. -/
theorem not_frozenTick_of_runs {s : State} {b : Bool} (h : b = true ∨ s.halt = .low) : ¬ (b = false ∧ s.halt = .high) := by
  rintro ⟨hb, hh⟩
  rcases h with h | h
  · exact Bool.false_ne_true (hb.symm.trans h)
  · exact Level.noConfusion (h.symm.trans hh)

/-- A tick that runs flips PHASE: the latch pass flips it (R66) and the executing pass keeps it. -/
theorem tick_phase {s : State} {b : Bool} (hf : s.fault = none) (hh : ¬ (b = false ∧ s.halt = .high)) :
    (tick b s).phase = s.phase.not := by
  cases hp : s.phase with
  | high => rw [tick_low hf hh hp, latchPass_phase, hp]
  | low => rw [tick_high hf hh hp, executingPass_phase, latchPass_phase, hp]

/-- Settles O14: a running tick flips PHASE (`tick_phase`), and reset writes it LOW. -/
theorem phaseAlternates : Obligations.PhaseAlternates :=
  ⟨fun _ _ hf hr => tick_phase hf (not_frozenTick_of_runs hr), hostReset_phase⟩

end Sys2Proof.Machine
end

section
/-! PROOFS. What answers a next state, case by case: a run of ticks, a meaning, a step; and the ROM banks, which all of them
keep (spec/20_memory.md R41). -/

namespace Sys2Proof.Machine

variable {s t : State} {i : Instr} {effect : State → State}

/-- What every tick keeps, a run of ticks up to a boundary keeps. -/
theorem ticksToBoundary_induction {P : State → Prop} (hP : ∀ b s, P s → P (tick b s)) (n : Nat) (s : State) (hs : P s) :
    P (ticksToBoundary n s) := by
  induction n generalizing s with
  | zero => exact hs
  | succ n ih =>
    have h1 : P s.hostTick := hP _ s hs
    rw [ticksToBoundary_succ]
    split
    · exact h1
    · exact ih _ h1

/-- Everything a meaning can do, from any state and under any firmware, when it answers a next state. -/
theorem cycle_next_cases (h : cycle i effect s = .next t) :
    s.fault = none ∧ (s.Frozen ∧ t = s ∨ s.Ready ∧ t = effect (s.fetchInstr (encode s.hltOpcode i)) ∨
      ¬ s.InRam s.pc.toNat ∧ t = s.fetchFault ∨
      ¬ (s.AtCycleStart ∧ s.HasReferenceFirmware) ∧ t = runCycle (s.placeInstr (encode s.hltOpcode i))) := by
  by_cases hc : s.AtCycleStart ∧ s.HasReferenceFirmware
  · obtain ⟨hf, hz | hr | hin⟩ := cycle_cases hc.1 hc.2 h
    · exact ⟨hf, .inl hz⟩
    · exact ⟨hf, .inr (.inl hr)⟩
    · exact ⟨hf, .inr (.inr (.inl hin))⟩
  · cases hf : s.fault with
    | some k => rw [cycle_of_fault hf] at h; cases h
    | none =>
      refine ⟨rfl, ?_⟩
      by_cases hz : s.Frozen
      · rw [cycle_of_frozen hf hz] at h
        cases h
        exact .inl ⟨hz, rfl⟩
      · rw [cycle_of_elsewhere hf hz hc] at h
        cases h
        exact .inr (.inr (.inr ⟨hc, rfl⟩))

/-- Going on with a cycle in progress answers a next state only without a fault, by the ticks to the boundary. -/
theorem resume_next (h : resume s = .next t) : s.fault = none ∧ t = runCycle s := by
  unfold resume at h
  split at h
  · cases h
  · cases h
    exact ⟨‹_›, rfl⟩

/-- A step is the meaning of the instruction at PC, or the rest of the cycle in progress. -/
theorem step_next_cases (h : step s = .next t) :
    (∃ i, s.nextInstr = some i ∧ exec i s = .next t) ∨ (s.nextInstr = none ∧ s.fault = none ∧ t = runCycle s) := by
  unfold step at h
  split at h
  · exact .inl ⟨_, ‹_›, h⟩
  · exact .inr ⟨‹_›, resume_next h⟩

/-- The two ROM banks, in the order `loadFirmware` answers them: A, B (R39). -/
def State.banks (s : State) : Mem 8 × Mem 8 := (s.romA, s.romB)

theorem State.banks_eq_iff : t.banks = s.banks ↔ t.romA = s.romA ∧ t.romB = s.romB := Prod.mk_inj

theorem State.placeInstr_banks (s : State) (w : Byte) : (s.placeInstr w).banks = s.banks := by
  unfold State.placeInstr
  split
  · rfl
  · simp [State.banks]

theorem State.atOperand_banks (s : State) (n : Nibble) (w : ControlWord) (he : ∀ m, (effect m).banks = m.banks) :
    (s.atOperand n w effect).banks = s.banks := by
  by_cases hn : s.InRam n.toNat
  · rw [State.atOperand_of_inRam w hn, he]
    rfl
  · rw [State.atOperand_of_outside w hn]
    rfl

/-- No control signal writes the ROM: none of the passes a tick can make does. -/
theorem tick_banks (b : Bool) (s : State) : (tick b s).banks = s.banks := by
  obtain ⟨h, -⟩ | ⟨-, -, ⟨-, h⟩ | ⟨-, ⟨-, h⟩ | ⟨-, -, -, h⟩ | ⟨-, -, h⟩⟩⟩ := tick_cases b s <;> rw [h] <;> rfl

theorem runCycle_banks (s : State) : (runCycle s).banks = s.banks :=
  ticksToBoundary_induction (P := fun x => x.banks = s.banks) (fun b x hx => (tick_banks b x).trans hx) 16 s rfl

/-- A meaning keeps the ROM when its own effect does: the fetch, its fault and the ticks of a cycle all keep it. -/
theorem cycle_banks (h : cycle i effect s = .next t) (he : ∀ f, (effect f).banks = f.banks) : t.banks = s.banks := by
  obtain ⟨-, ⟨-, rfl⟩ | ⟨-, rfl⟩ | ⟨-, rfl⟩ | ⟨-, rfl⟩⟩ := cycle_next_cases h
  · rfl
  · exact he _
  · rfl
  · exact (runCycle_banks _).trans (s.placeInstr_banks _)

/-- No instruction writes the ROM. Only STA writes memory, and that a RAM cell. -/
theorem exec_banks (h : exec i s = .next t) : t.banks = s.banks := by
  unfold exec at h
  cases i with
  | nop | ldi | jmp | out | unassigned10 | unassigned11 | unassigned12 | unassigned13 | unassigned14 =>
    exact cycle_banks h fun _ => rfl
  | lda n | add n | sub n | sta n => exact cycle_banks h fun f => f.atOperand_banks n _ fun m => by simp [State.banks]
  | jc | jz | hlt =>
    refine cycle_banks h fun f => ?_
    split <;> rfl

theorem step_banks (h : step s = .next t) : t.banks = s.banks := by
  obtain ⟨i, -, hi⟩ | ⟨-, -, rfl⟩ := step_next_cases h
  · exact exec_banks hi
  · exact runCycle_banks s

theorem setFrequency_next {hz : Rat} (h : setFrequency hz s = .next t) : 0 < hz ∧ t = { s with freq := hz } := by
  unfold setFrequency at h
  split at h
  · cases h
    exact ⟨‹_›, rfl⟩
  · cases h

/-- Everything `loadProgram` can do when it answers a next state (R44). -/
theorem loadProgram_next_cases {words : List Int} (h : loadProgram words s = .next t) :
    s.ramSize < words.length ∧ t = s.raiseFault .outOfRange ∨
    words.length ≤ s.ramSize ∧ t = { s with ram := s.ram.writeAll 0 (words.map (BitVec.ofInt 16)) } := by
  unfold loadProgram at h
  split at h
  · cases h
  · split at h <;> cases h
    · exact .inl ⟨‹_›, rfl⟩
    · exact .inr ⟨Nat.le_of_not_lt ‹_›, rfl⟩

/-- No host operation writes the ROM, reset included: it hands the old banks to the fresh state (R146). -/
theorem hostOp_banks {op : HostOp} (h : hostOp op s = .next t) : t.banks = s.banks := by
  cases op with
  | tick b => cases h; exact tick_banks b s
  | setFrequency hz => obtain ⟨-, rfl⟩ := setFrequency_next h; rfl
  | setHaltInput level => cases h; rfl
  | reset => cases h; rfl
  | loadProgram words => obtain ⟨-, rfl⟩ | ⟨-, rfl⟩ := loadProgram_next_cases h <;> rfl

/-- Construction answers the fresh state of the banks the firmware resource loads (R42, R148). -/
theorem construct_next {o : HltOpcode} {n : Nat} {hz : Rat} {r : Option (List Line)} (h : construct o n hz r = .next t) :
    0 < hz ∧ ∃ romA romB, loadFirmware r = some (romA, romB) ∧ t = State.fresh o n hz romA romB := by
  unfold construct at h
  split at h
  · split at h <;> cases h
    exact ⟨‹_›, _, _, ‹_›, rfl⟩
  · cases h

/-- Settles O27: construction stores the loaded banks, and host operations, instructions and steps keep `State.banks`. -/
theorem romNeverWritten : Obligations.RomNeverWritten := by
  refine ⟨fun _ _ _ _ t h => ?_, fun _ _ _ h => State.banks_eq_iff.1 (hostOp_banks h),
    fun _ _ _ h => State.banks_eq_iff.1 (exec_banks h), fun _ _ h => State.banks_eq_iff.1 (step_banks h)⟩
  obtain ⟨-, romA, romB, hl, rfl⟩ := construct_next h
  exact hl

end Sys2Proof.Machine
end

section
/-! PROOFS. The firmware line format (spec/30_encoding.md R62): a line's characters are the bits of its word. -/

namespace Sys2Proof.Machine

/-- A character `0` or `1` appends its bit below the number read so far. -/
theorem parseBits_cons_of_binary {c : Char} (acc : Nat) (cs : Line) (hc : c = '0' ∨ c = '1') :
    parseBits acc (c :: cs) = parseBits (Nat.bit (decide (c = '1')) acc) cs := by
  rcases hc with rfl | rfl <;> rfl

theorem parseBits_cons_of_not_binary {c : Char} (acc : Nat) (cs : Line) (hc : ¬ (c = '0' ∨ c = '1')) :
    parseBits acc (c :: cs) = none := by
  obtain ⟨h0, h1⟩ := not_or.1 hc
  rw [parseBits, if_neg h0, if_neg h1]

/-- The bits of `n` from `k` upward are `b` followed by `a` exactly when bit `k` is `b` and those above it are `a`. -/
theorem div_two_pow_eq_bit_iff (n k a : Nat) (b : Bool) :
    n / 2 ^ k = Nat.bit b a ↔ n / 2 ^ (k + 1) = a ∧ n.testBit k = b := by
  rw [Nat.pow_succ, ← Nat.div_div_eq_div_mul, Nat.testBit_eq_decide_div_mod_eq]
  cases b <;> simp only [Nat.bit_true, Nat.bit_false, decide_eq_true_eq, decide_eq_false_iff_not] <;> omega

/-- A line is read as `n`, after the value `acc`, exactly when its characters are binary digits and spell the lowest bits of
`n`, most significant first, with `acc` above them. -/
theorem parseBits_eq_some_iff (l : Line) (acc n : Nat) :
    parseBits acc l = some n ↔ (∀ c ∈ l, c = '0' ∨ c = '1') ∧ n / 2 ^ l.length = acc ∧
      ∀ k, k < l.length → n.testBit (l.length - 1 - k) = decide (l[k]? = some '1') := by
  induction l generalizing acc with
  | nil => simp [parseBits, eq_comm]
  | cons c cs ih =>
    by_cases hc : c = '0' ∨ c = '1'
    · have hbit (k : Nat) : cs.length - 1 - k = cs.length - (k + 1) := by omega
      rw [parseBits_cons_of_binary acc cs hc, ih, div_two_pow_eq_bit_iff, List.length_cons, Nat.forall_lt_succ_left]
      simp [hc, hbit, and_assoc]
    · simp [parseBits_cons_of_not_binary acc cs hc, hc]

/-- A data line is read as the word whose number its 16 characters spell: 16 digits never overflow the word. -/
theorem parseLine_eq_some_iff (l : Line) (v : ControlWord) :
    parseLine l = some v ↔ l.length = 16 ∧ parseBits 0 l = some v.toNat := by
  rw [parseLine, Option.ite_none_right_eq_some, Option.map_eq_some_iff]
  refine and_congr_right fun hl => ⟨?_, fun h => ⟨v.toNat, h, by simp⟩⟩
  rintro ⟨n, hn, rfl⟩
  obtain ⟨-, htop, -⟩ := (parseBits_eq_some_iff l 0 n).1 hn
  rw [hl] at htop
  rw [hn, BitVec.toNat_ofNat, Nat.mod_eq_of_lt (Nat.lt_of_div_eq_zero (by decide) htop)]

theorem skipsLine_iff (l : Line) : skipsLine l = true ↔ l = [] ∨ l.head? = some '#' := by
  cases l <;> simp [skipsLine]

/-- A line that carries no control word changes nothing in what the lines are read as. -/
theorem parseLines_cons_of_skipsLine {l : Line} (ls : List Line) (h : skipsLine l = true) :
    parseLines (l :: ls) = parseLines ls := by
  rw [parseLines, if_pos h]

/-- Settles O8: the characters of a line are the bits of the number it spells (`parseBits_eq_some_iff`), which 16 of them keep
below 2 ^ 16. -/
theorem firmwareLineFormat : Obligations.FirmwareLineFormat := by
  refine ⟨fun l v => ?_, by decide, fun l ls h => parseLines_cons_of_skipsLine ls ((skipsLine_iff l).2 h)⟩
  rw [parseLine_eq_some_iff, parseBits_eq_some_iff]
  refine and_congr_right fun hl => and_congr_right fun _ => ?_
  have htop : v.toNat / 2 ^ 16 = 0 := Nat.div_eq_of_lt v.isLt
  rw [hl, and_iff_right htop]
  rfl

end Sys2Proof.Machine
end

section
/-! PROOFS. HALT and the frequency over a tick: what a tick reads of HALT, and what a LOW tick writes
(spec/40_engine_cycle.md R65, R75, R79). -/

namespace Sys2Proof.Machine

variable {s : State}

/-- The executing pass neither reads nor writes HALT: no condition of its faults and no effect depends on it, so that a change
of HALT before it is the same change after it. -/
theorem executingPass_setHalt (s : State) (v : Level) : executingPass (s.setHalt v) = (executingPass s).setHalt v := by
  have push := apply_ite fun x : State => x.setHalt v
  rw [executingPass, executingPass, push, push]
  rfl

/-- The latch pass reads HALT for its new HALT only. -/
theorem latchPass_setHalt_setHalt (s : State) (v w : Level) : (latchPass (s.setHalt v)).setHalt w = (latchPass s).setHalt w := rfl

/-- A tick in single-step mode reads HALT for its new HALT only. -/
theorem tick_true_setHalt_setHalt (s : State) (v w : Level) : (tick true (s.setHalt v)).setHalt w = (tick true s).setHalt w := by
  have runs (x : State) : ¬ (true = false ∧ x.halt = .high) := not_frozenTick_of_runs (.inl rfl)
  by_cases hf : s.fault = none
  · cases hp : s.phase with
    | high => rw [tick_low (s := s.setHalt v) hf (runs _) hp, tick_low hf (runs s) hp, latchPass_setHalt_setHalt]
    | low =>
      rw [tick_high (s := s.setHalt v) hf (runs _) hp, tick_high hf (runs s) hp, ← executingPass_setHalt,
        latchPass_setHalt_setHalt, executingPass_setHalt]
  · rw [tick_of_fault (s := s.setHalt v) true hf, tick_of_fault true hf]
    rfl

/-- With HALT LOW no tick is frozen, so the two tick modes do the same. -/
theorem tick_eq_of_halt_low (b c : Bool) (h : s.halt = .low) : tick b s = tick c s := by
  unfold tick
  rw [if_neg (not_frozenTick_of_runs (b := b) (.inr h)), if_neg (not_frozenTick_of_runs (b := c) (.inr h))]

/-- Settles O13: `tick(false)` is frozen, and `tick(true)` reads HALT for HALT alone and runs under both values of it. -/
theorem haltFreezesContinuousTicks : Obligations.HaltFreezesContinuousTicks := by
  refine ⟨fun s h => tick_of_frozen h, fun s => ⟨?_, tick_eq_of_halt_low true false rfl, fun hf => ?_⟩⟩
  · rw [tick_true_setHalt_setHalt, tick_true_setHalt_setHalt]
  · exact tick_phase hf (not_frozenTick_of_runs (.inl rfl))

/-- Settles O16: from PHASE HIGH a tick is nothing or the latch pass (`tick_cases`), which writes PHASE, CW and HALT alone. -/
theorem lowTickExecutesNothing : Obligations.LowTickExecutesNothing := by
  intro b s hp
  obtain ⟨h, -⟩ | ⟨-, -, ⟨-, h⟩ | ⟨hl, -⟩⟩ := tick_cases b s
  · rw [h]
  · rw [h]
    rfl
  · exact Level.noConfusion (hl.symm.trans hp)

/-- No pass of a tick writes the frequency. -/
@[simp] theorem tick_freq (b : Bool) (s : State) : (tick b s).freq = s.freq := by
  obtain ⟨h, -⟩ | ⟨-, -, ⟨-, h⟩ | ⟨-, ⟨-, h⟩ | ⟨-, -, -, h⟩ | ⟨-, -, h⟩⟩⟩ := tick_cases b s <;> rw [h] <;> rfl

/-- Settles O28: `setFrequency` accepts exactly the positive frequencies, and a tick keeps the one it finds. (The name
`setFrequency` is the operation's own.) -/
theorem setFrequency_sets_or_rejects : Obligations.SetFrequency :=
  fun _ _ => ⟨fun h => ⟨if_pos h, fun b => tick_freq b _⟩, fun h => if_neg (not_lt.2 h)⟩

end Sys2Proof.Machine
end

section
/-! PROOFS. Instruction words and ROM addresses (spec/30_encoding.md R56 to R63): each is a concatenation of bit fields, which
its fields determine and which determines them. -/

namespace Sys2Proof

open Machine Laws.WordFields

/-- A concatenation as a number: the upper field times the weight of the lower one, plus the lower one. -/
theorem toNat_append_eq {m n : Nat} (x : BitVec m) (y : BitVec n) : (x ++ y).toNat = 2 ^ n * x.toNat + y.toNat := by
  rw [BitVec.toNat_append, ← Nat.shiftLeft_add_eq_or_of_lt y.isLt, Nat.shiftLeft_eq, Nat.mul_comm]

/-- Every word is its opcode field above its operand field (R58). -/
theorem opcodeField_append_operandField (w : Byte) : opcodeField w ++ operandField w = w :=
  (BitVec.extractLsb'_append_extractLsb'_eq_extractLsb' rfl).trans BitVec.extractLsb'_eq_self

/-- Decoding reads the opcode and the operand that encoding wrote; the opcodes of one HLT opcode are distinct (R60, R130). -/
theorem decode_encode (h : HltOpcode) (i : Instr) : decode h (encode h i) = i := by
  obtain ⟨ho, hn⟩ : opcodeField (encode h i) = i.opcode h ∧ operandField (encode h i) = i.operand := fields_of_append _ _
  rw [decode, ho, hn]
  cases h <;> cases i <;> rfl

/-- Every opcode from 10 up is HLT's or an unassigned row's (R60, R130). -/
theorem hlt_or_unassigned_of_ten_le (h : HltOpcode) : ∀ o : Nibble, 10 ≤ o.toNat →
    o = h.value ∨ o = unassignedOpcode h 10 ∨ o = unassignedOpcode h 11 ∨ o = unassignedOpcode h 12 ∨
      o = unassignedOpcode h 13 ∨ o = unassignedOpcode h 14 := by
  cases h <;> decide

/-- The instruction decoded from a word has the fields the word holds: each test of `decode` names the opcode it found. -/
theorem fields_decode (h : HltOpcode) (w : Byte) :
    (decode h w).opcode h = opcodeField w ∧ (decode h w).operand = operandField w := by
  simp only [decode]
  generalize opcodeField w = o
  split_ifs with hh h10 h11 h12 h13 h14
  case neg =>
    have hlt : o.toNat < 10 := by
      by_contra hge
      rcases hlt_or_unassigned_of_ten_le h o (Nat.le_of_not_lt hge) with e | e | e | e | e | e <;> contradiction
    split <;> refine ⟨BitVec.eq_of_toNat_eq (Eq.symm ?_), rfl⟩
    case h_10 =>
      change o.toNat = 9
      simp only [imp_false] at *
      omega
    all_goals assumption
  all_goals exact ⟨Eq.symm ‹_›, rfl⟩

/-- Encoding writes back the fields that decoding read, so every word is the encoding of what it decodes to (R60, R61). -/
theorem encode_decode (h : HltOpcode) (w : Byte) : encode h (decode h w) = w := by
  obtain ⟨ho, hn⟩ := fields_decode h w
  rw [encode, ho, hn, opcodeField_append_operandField]

/-- The low byte of a cell, zero-extended, is the cell with its bits 15:8 cleared. -/
theorem zeroExtend_lowByte (c : Word) : (c.setWidth 8).setWidth 16 = c &&& 0x00FF := by
  apply BitVec.eq_of_toNat_eq
  rw [BitVec.toNat_and, show (0x00FF : Word).toNat = 2 ^ 8 - 1 from rfl, Nat.and_two_pow_sub_one_eq_mod,
    BitVec.toNat_setWidth_of_le (by decide), BitVec.toNat_setWidth]

/-- Settles O1: decoding and encoding are inverse on bytes, and a cell adds the zero byte above (R58). -/
theorem decodeEncodeAgree : Obligations.DecodeEncodeAgree := by
  refine fun h => ⟨decode_encode h, fun c => ?_⟩
  rw [encodeCell, decodeCell, encode_decode]
  exact zeroExtend_lowByte c

/-- Settles O2: sixteen closed words, each evaluated by `decode`. -/
theorem specWordsDecode : Obligations.SpecWordsDecode := by
  unfold Obligations.SpecWordsDecode
  decide

/-- An instruction's cell as a number is `(opcode << 4) | operand` (R63). -/
theorem encodeCell_eq (h : HltOpcode) (i : Instr) :
    encodeCell h i = BitVec.ofNat 16 (16 * (i.opcode h).toNat + i.operand.toNat) := by
  apply BitVec.eq_of_toNat_eq
  rw [encodeCell, encode, BitVec.toNat_setWidth, toNat_append_eq, BitVec.toNat_ofNat]
  rfl

/-- A form without operand assembles exactly for the mnemonics that take none, with operand bits 0 (R63). -/
theorem assemble_none (h : HltOpcode) (m : Mnemonic) :
    assemble h ⟨m, none⟩ = if m.takesOperand then none else some (encodeCell h (m.toInstr 0)) := by
  cases m <;> rfl

/-- A form with operand assembles exactly for the mnemonics that take one, and for operands 0 to 15 (R63, decision D31). -/
theorem assemble_some (h : HltOpcode) (m : Mnemonic) (n : Nat) :
    assemble h ⟨m, some n⟩ =
      if m.takesOperand ∧ n ≤ 15 then some (encodeCell h (m.toInstr (BitVec.ofNat 4 n))) else none := by
  cases m <;> simp [assemble, SourceForm.wellFormed, Mnemonic.takesOperand]

/-- Settles O3: the mnemonics of each list do or do not take an operand, and `encodeCell_eq` gives the word's number. -/
theorem assemblerForms : Obligations.AssemblerForms := by
  refine ⟨fun h m k hm => ?_, fun h m k hm => ?_⟩
  · have hk : m.takesOperand = false ∧ ((m.toInstr 0).opcode h).toNat = k ∧ (m.toInstr 0).operand = 0 := by
      simp only [List.mem_cons, List.not_mem_nil, or_false, Prod.mk.injEq] at hm
      rcases hm with ⟨rfl, rfl⟩ | ⟨rfl, rfl⟩ | ⟨rfl, rfl⟩ <;> exact ⟨rfl, rfl, rfl⟩
    obtain ⟨ht, ho, hz⟩ := hk
    refine ⟨?_, fun n => by simp [assemble_some, ht]⟩
    rw [assemble_none, ht, encodeCell_eq, ho, hz]
    rfl
  · have hk : m.takesOperand = true ∧ ∀ x, ((m.toInstr x).opcode h).toNat = k ∧ (m.toInstr x).operand = x := by
      simp only [List.mem_cons, List.not_mem_nil, or_false, Prod.mk.injEq] at hm
      rcases hm with ⟨rfl, rfl⟩ | ⟨rfl, rfl⟩ | ⟨rfl, rfl⟩ | ⟨rfl, rfl⟩ | ⟨rfl, rfl⟩ | ⟨rfl, rfl⟩ | ⟨rfl, rfl⟩ | ⟨rfl, rfl⟩ <;>
        exact ⟨rfl, fun _ => ⟨rfl, rfl⟩⟩
    obtain ⟨ht, ho⟩ := hk
    refine ⟨by simp [assemble_none, ht], fun n => ?_⟩
    by_cases hn : n ≤ 15
    · have hmod : n % 16 = n := Nat.mod_eq_of_lt (by omega)
      simp [assemble_some, encodeCell_eq, ht, ho, hn, hmod]
    · simp [assemble_some, hn]

namespace Machine

/-- FLAGS is its two flags (R20, R102). -/
@[simp] theorem packFlags_flags : ∀ f : BitVec 2, packFlags (zeroFlag f) (carryFlag f) = f := by decide

/-- The address that the fields of `a` assemble to is `a`. -/
theorem romAddress_extract (a : BitVec 9) :
    romAddress (a.extractLsb' 7 2) (a.extractLsb' 3 4) (a.extractLsb' 0 3) = a := by
  rw [romAddress, BitVec.extractLsb'_append_extractLsb'_eq_extractLsb' (start₁ := 3) (len₁ := 4) rfl,
    BitVec.extractLsb'_append_extractLsb'_eq_extractLsb' (start₁ := 0) (len₁ := 3) rfl, BitVec.extractLsb'_eq_self]

/-- Settles O4: the fields can be read back from an assembled address, and every address is assembled from its own. -/
theorem romAddressOneToOne : Obligations.RomAddressOneToOne := by
  refine ⟨fun f f' o o' t t' h => ?_, fun a => ⟨_, _, _, romAddress_extract a⟩⟩
  obtain ⟨hz, hc, ho, ht⟩ := romAddress_fields f o t
  obtain ⟨hz', hc', ho', ht'⟩ := romAddress_fields f' o' t'
  rw [h] at hz hc ho ht
  exact ⟨by rw [← packFlags_flags f, ← packFlags_flags f', ← hz, ← hc, ← hz', ← hc'], ho.symm.trans ho', ht.symm.trans ht'⟩

theorem flags_toNat : ∀ f : BitVec 2, f.toNat = 2 * (zeroFlag f).toNat + (carryFlag f).toNat := by decide

/-- Bits 7:4 of IR as a number (R17). -/
theorem irOpcode_toNat (ir : Word) : (irOpcode ir).toNat = ir.toNat / 16 % 16 := by
  rw [irOpcode, BitVec.extractLsb'_toNat, Nat.shiftRight_eq_div_pow]

/-- Settles O5: the three fields of the address with their weights. -/
theorem romAddressOfState : Obligations.RomAddressOfState := by
  intro s
  rw [State.romAddress, romAddress, toNat_append_eq, toNat_append_eq, flags_toNat, irOpcode_toNat]
  omega

/-- Settles O7: a read joins the two bytes; an address has nine bits. -/
theorem romReadJoinsBanks : Obligations.RomReadJoinsBanks :=
  fun _ _ a => ⟨toNat_append_eq _ _, a.isLt⟩

end Machine

end Sys2Proof
end

section
/-! PROOFS. Control words (spec/30_encoding.md R54, R55) and their drivers, and the ALU (spec/41_control_signals.md R103). -/

namespace Sys2Proof.Machine

/-- Signal `x` is the bit of weight `2 ^ position(x)` (R55). -/
theorem sig_eq_true_iff (v : ControlWord) (x : Signal) : sig v x = true ↔ v.toNat / 2 ^ x.position % 2 = 1 := by
  rw [sig, ← BitVec.testBit_toNat, Nat.testBit_eq_decide_div_mod_eq, decide_eq_true_eq]

/-- Every bit position is a signal's (R54). -/
theorem exists_signal_at {i : Nat} (h : i < 16) : ∃ x : Signal, x.position = i := by
  interval_cases i
  exacts [⟨.hlt, rfl⟩, ⟨.mi, rfl⟩, ⟨.ri, rfl⟩, ⟨.ro, rfl⟩, ⟨.io, rfl⟩, ⟨.ii, rfl⟩, ⟨.ai, rfl⟩, ⟨.ao, rfl⟩, ⟨.eo, rfl⟩,
    ⟨.su, rfl⟩, ⟨.bi, rfl⟩, ⟨.oi, rfl⟩, ⟨.ce, rfl⟩, ⟨.co, rfl⟩, ⟨.j, rfl⟩, ⟨.fi, rfl⟩]

/-- The signals determine the word (R55). -/
theorem controlWord_ext {v w : ControlWord} (h : ∀ x, sig v x = sig w x) : v = w := by
  apply BitVec.eq_of_getLsbD_eq
  intro i hi
  obtain ⟨x, rfl⟩ := exists_signal_at hi
  exact h x

/-- The number of drivers, counted signal by signal (R70). -/
theorem drivers_length (w : ControlWord) : (drivers w).length =
    (sig w .co).toNat + (sig w .io).toNat + (sig w .ao).toNat + (sig w .eo).toNat + (sig w .ro && !sig w .ri).toNat := by
  have cons (p : Module → Bool) (m : Module) (ms : List Module) :
      ((m :: ms).filter p).length = (p m).toNat + (ms.filter p).length := by
    cases hp : p m <;> simp [hp, Nat.add_comm]
  simp only [drivers, Module.all, cons, List.filter_nil, List.length_nil, willWrite, Bool.toNat_false, Nat.add_zero,
    Nat.add_assoc]

theorem contends_iff (w : ControlWord) : contends w = true ↔ 2 ≤ (drivers w).length := decide_eq_true_iff

/-- Without contention a module that writes is the only driver (R72, R73). -/
theorem drivers_of_willWrite {w : ControlWord} {m : Module} (hc : contends w = false) (hm : willWrite w m = true) :
    drivers w = [m] := by
  have hmem : m ∈ drivers w := List.mem_filter.2 ⟨by cases m <;> decide, hm⟩
  have hlen : (drivers w).length < 2 := by
    rw [← Nat.not_le, ← contends_iff, hc]
    exact Bool.false_ne_true
  match hd : drivers w, hmem, hlen with
  | [x], hx, _ => rw [List.mem_singleton.1 hx]

/-- The Bus under the one driver `m` (R73). -/
theorem resolvedBus_of_willWrite {s : State} {m : Module} (hc : contends s.cw = false) (hm : willWrite s.cw m = true) :
    resolvedBus s = driveValue s m :=
  resolvedBus_of_driver (drivers_of_willWrite hc hm)

@[simp] theorem zeroFlag_packFlags : ∀ z c : Bool, zeroFlag (packFlags z c) = z := by decide

@[simp] theorem carryFlag_packFlags : ∀ z c : Bool, carryFlag (packFlags z c) = c := by decide

/-- The ALU's 9-bit sum as a number; a subtraction adds 256 minus the subtrahend (R103). -/
theorem aluRaw_toNat (a b : Byte) (subtract : Bool) :
    (aluRaw a b subtract).toNat = if subtract then a.toNat + (256 - b.toNat) else a.toNat + b.toNat := by
  cases subtract
  · simp only [aluRaw, Bool.false_eq_true, if_false]
    bv_omega
  · simp only [aluRaw, if_true]
    bv_omega

/-- The carry is bit 8 of the 9-bit sum (R103). -/
theorem aluCompute_c_iff (a b : Byte) (subtract : Bool) :
    (aluCompute a b subtract).c = true ↔ 256 ≤ (aluRaw a b subtract).toNat := by
  have hlt := (aluRaw a b subtract).isLt
  show (aluRaw a b subtract).getLsbD 8 = true ↔ _
  rw [← BitVec.testBit_toNat, Nat.testBit_eq_decide_div_mod_eq, decide_eq_true_eq]
  omega

/-- The result is the wrapped sum or difference (R103, R104). -/
theorem aluCompute_res (a b : Byte) (subtract : Bool) :
    (aluCompute a b subtract).res = if subtract then a - b else a + b := by
  apply BitVec.eq_of_toNat_eq
  show ((aluRaw a b subtract).setWidth 8).toNat = _
  rw [BitVec.toNat_setWidth, aluRaw_toNat]
  cases subtract
  · exact (BitVec.toNat_add a b).symm
  · simp only [if_true, BitVec.toNat_sub]
    omega

theorem aluCompute_z (a b : Byte) (subtract : Bool) :
    (aluCompute a b subtract).z = decide ((aluCompute a b subtract).res = 0) := rfl

@[simp] theorem aluCompute_add_res (a b : Byte) : (aluCompute a b false).res = a + b := aluCompute_res a b false

@[simp] theorem aluCompute_sub_res (a b : Byte) : (aluCompute a b true).res = a - b := aluCompute_res a b true

@[simp] theorem aluCompute_add_z (a b : Byte) :
    (aluCompute a b false).z = decide ((a.toNat + b.toNat) % 256 = 0) := by
  rw [aluCompute_z, aluCompute_add_res, decide_eq_decide, ← BitVec.toNat_inj, BitVec.toNat_add]
  rfl

/-- The carry of a sum is its overflow (R104). -/
@[simp] theorem aluCompute_add_c (a b : Byte) : (aluCompute a b false).c = decide (255 < a.toNat + b.toNat) := by
  rw [Bool.eq_iff_iff, aluCompute_c_iff, aluRaw_toNat, decide_eq_true_eq]
  rfl

@[simp] theorem aluCompute_sub_z (a b : Byte) : (aluCompute a b true).z = decide (a = b) := by
  rw [aluCompute_z, aluCompute_sub_res, decide_eq_decide]
  exact sub_eq_zero

/-- The carry of a difference is the absence of a borrow (R104, decision D4). -/
@[simp] theorem aluCompute_sub_c (a b : Byte) : (aluCompute a b true).c = decide (b.toNat ≤ a.toNat) := by
  rw [Bool.eq_iff_iff, aluCompute_c_iff, aluRaw_toNat, decide_eq_true_eq, if_pos rfl]
  omega

/-- Settles O24: result, zero and carry of the sum and of the difference. -/
theorem aluSumsAndDifferences : Obligations.AluSumsAndDifferences := by
  intro a b
  simp only [aluCompute_add_res, aluCompute_add_z, aluCompute_add_c, aluCompute_sub_res, aluCompute_sub_z, aluCompute_sub_c,
    decide_eq_true_eq, iff_self, and_true, true_and, BitVec.toNat_add, BitVec.toNat_sub]
  omega

end Sys2Proof.Machine
end

section
/-! PROOFS. One tick (spec/40_engine_cycle.md R64 to R76): what it fetches, what it commits, and when it faults. -/

namespace Sys2Proof.Machine

variable {s : State} {b : Bool}

/-- Everything the executing pass can do. -/
theorem executingPass_cases (s : State) : executingPass s = s.raiseFault .busContention ∨
    executingPass s = s.raiseFault .outOfRange ∨ executingPass s = commit s := by
  unfold executingPass
  split
  · exact .inl rfl
  · split
    · exact .inr (.inl rfl)
    · exact .inr (.inr rfl)

@[simp] theorem executingPass_cw (s : State) : (executingPass s).cw = s.cw := by
  rcases executingPass_cases s with h | h | h <;> rw [h] <;> rfl

@[simp] theorem executingPass_halt_eq (s : State) : (executingPass s).halt = s.halt := by
  rcases executingPass_cases s with h | h | h <;> rw [h] <;> rfl

/-- A running tick is the latch pass, and on PHASE LOW the executing pass after it (R64, R75). -/
theorem tick_of_runs (hf : s.fault = none) (hr : b = true ∨ s.halt = .low) :
    s.phase = .high ∧ tick b s = latchPass s ∨ s.phase = .low ∧ tick b s = executingPass (latchPass s) := by
  cases hp : s.phase with
  | high => exact .inl ⟨rfl, tick_low hf (not_frozenTick_of_runs hr) hp⟩
  | low => exact .inr ⟨rfl, tick_high hf (not_frozenTick_of_runs hr) hp⟩

/-- A running tick makes the fetched word the control word, LOW or HIGH (R67, decision D11). -/
theorem tick_cw (hf : s.fault = none) (hr : b = true ∨ s.halt = .low) : (tick b s).cw = s.fetchedWord := by
  obtain ⟨-, h⟩ | ⟨-, h⟩ := tick_of_runs hf hr <;> simp [h]

/-- A running tick requests the halt when the fetched word has HLT (R69, decision D12). -/
theorem tick_halt (hf : s.fault = none) (hr : b = true ∨ s.halt = .low) :
    (tick b s).halt = if sig s.fetchedWord .hlt then .high else s.halt := by
  obtain ⟨-, h⟩ | ⟨-, h⟩ := tick_of_runs hf hr <;> simp [h]

/-- Settles O15: `tick_cw` and `tick_halt`; a LOW tick leaves the ROM, FLAGS, IR and T that select the row. -/
theorem everyTickFetches : Obligations.EveryTickFetches := by
  refine fun b s hf hr => ⟨tick_cw hf hr, tick_halt hf hr, fun hp => ?_⟩
  rw [tick_low hf (not_frozenTick_of_runs hr) hp]
  exact tick_cw (s := latchPass s) hf (.inl rfl)

/-- Contention on a HIGH tick (R72). -/
theorem tick_contends (hf : s.fault = none) (hr : b = true ∨ s.halt = .low) (hp : s.phase = .low)
    (hc : contends s.fetchedWord = true) : tick b s = (latchPass s).raiseFault .busContention := by
  rw [tick_high hf (not_frozenTick_of_runs hr) hp]
  exact executingPass_contends hc

/-- A RAM access outside RAM on a HIGH tick (R38, R133). -/
theorem tick_outOfRange (hf : s.fault = none) (hr : b = true ∨ s.halt = .low) (hp : s.phase = .low)
    (hc : contends s.fetchedWord = false) (ha : accessesRam s.fetchedWord = true) (hm : ¬ s.InRam s.mar.toNat) :
    tick b s = (latchPass s).raiseFault .outOfRange := by
  rw [tick_high hf (not_frozenTick_of_runs hr) hp]
  exact executingPass_outOfRange hc ha hm

/-- A HIGH tick whose word can be executed (R105). -/
theorem tick_commit (hf : s.fault = none) (hr : b = true ∨ s.halt = .low) (hp : s.phase = .low)
    (hc : contends s.fetchedWord = false) (hm : accessesRam s.fetchedWord = true → s.InRam s.mar.toNat) :
    tick b s = commit (latchPass s) := by
  rw [tick_high hf (not_frozenTick_of_runs hr) hp]
  exact executingPass_commit hc hm

/-- A HIGH tick that does not fault had no contention and commits all effects of its word (R105, R133). -/
theorem tick_of_no_fault (hf : s.fault = none) (hr : b = true ∨ s.halt = .low) (hp : s.phase = .low)
    (ht : (tick b s).fault = none) : contends s.fetchedWord = false ∧ tick b s = commit (latchPass s) := by
  by_cases hc : contends s.fetchedWord = true
  · rw [tick_contends hf hr hp hc] at ht
    cases ht
  · have hc' : contends s.fetchedWord = false := by simpa using hc
    by_cases hm : accessesRam s.fetchedWord = true ∧ ¬ s.InRam s.mar.toNat
    · rw [tick_outOfRange hf hr hp hc' hm.1 hm.2] at ht
      cases ht
    · exact ⟨hc', tick_commit hf hr hp hc' (by simpa using hm)⟩

/-- Settles O6: a word is its bits, and a tick fetches any word; contention faults the HIGH tick. -/
theorem controlWordSignals : Obligations.ControlWordSignals := by
  refine ⟨sig_eq_true_iff, fun _ _ => controlWord_ext, fun b s hf hr => ⟨tick_cw hf hr, fun hp hd => ?_⟩⟩
  rw [tick_contends hf hr hp ((contends_iff _).2 hd)]
  rfl

/-- Settles O17: `commit` advances T; the latch pass alone and a fault leave it. -/
theorem stepIndexAdvances : Obligations.StepIndexAdvances := by
  intro b s hf hr
  refine ⟨fun hp ht => ?_, fun hp => ?_, fun ht => ?_⟩
  · rw [(tick_of_no_fault hf hr hp ht).2]
    exact ⟨BitVec.toNat_add s.t 1, rfl⟩
  · rw [tick_low hf (not_frozenTick_of_runs hr) hp]
    rfl
  · obtain ⟨-, h⟩ | ⟨-, h⟩ := tick_of_runs hf hr <;> rw [h] at ht ⊢
    · rfl
    · rcases executingPass_cases (latchPass s) with h | h | h <;> rw [h] at ht ⊢
      · rfl
      · rfl
      · exact absurd hf ht

/-- IR's operand as the byte it drives (R59, R91). -/
theorem operandByte_irOperand (ir : Word) : operandByte (irOperand ir) = BitVec.ofNat 8 (ir.toNat % 16) := by
  apply BitVec.eq_of_toNat_eq
  rw [operandByte_toNat, irOperand, BitVec.extractLsb'_toNat, BitVec.toNat_ofNat]
  omega

/-- The low byte of a cell as a number (R90, decision D7). -/
theorem lowByte_eq_ofNat (v : Word) : lowByte v = BitVec.ofNat 8 (v.toNat % 256) := by
  apply BitVec.eq_of_toNat_eq
  simp [lowByte_eq_setWidth]

/-- Settles O18: without contention the module that writes is the only driver, and the latch pass changes nothing it reads. -/
theorem highTickResolvesBus : Obligations.HighTickResolvesBus := by
  intro b s hf hr hp ht
  obtain ⟨hc, h⟩ := tick_of_no_fault hf hr hp ht
  have hbus (m : Module) (hm : willWrite s.fetchedWord m = true) : (tick b s).bus = driveValue (latchPass s) m := by
    rw [h]
    exact resolvedBus_of_willWrite hc hm
  refine ⟨hbus .pc, fun hs => ?_, hbus .acc, fun hs => ?_, fun hs hi => ?_, fun hd => ?_⟩
  · exact (hbus .ir hs).trans (operandByte_irOperand s.ir)
  · exact (hbus .alu hs).trans (aluCompute_res s.a s.b _)
  · exact (hbus .ram (by simp [willWrite, hs, hi])).trans (lowByte_eq_ofNat _)
  · rw [h]
    exact resolvedBus_of_none (s := latchPass s) hd

/-- Settles O19: the registers `commit` writes, each from the Bus of the same pass. -/
theorem highTickLoadsRegisters : Obligations.HighTickLoadsRegisters := by
  intro b s hf hr hp ht
  rw [(tick_of_no_fault hf hr hp ht).2]
  simp only [commit_mar, commit_ir, commit_a, commit_b, commit_out, commit_pc, commit_bus, nextMar, nextIr, nextA, nextB,
    nextOut, nextPc, latchPass_cw, Bool.and_eq_true, Bool.not_eq_true', Bool.not_eq_true]
  refine ⟨rfl, rfl, rfl, rfl, rfl, ?_⟩
  split <;> simp

/-- Under EO the ALU stores what it computes from the old A and B (R95). -/
theorem nextAlu_of_eo (h : sig s.cw .eo = true) : nextAlu s = aluCompute s.a s.b (sig s.cw .su) := if_pos h

/-- Without EO the ALU's stored values stay (R95). -/
theorem nextAlu_of_not_eo (h : sig s.cw .eo = false) : nextAlu s = { res := s.aluRes, z := s.aluZ, c := s.aluC } :=
  if_neg (by simp [h])

/-- FI takes the flags that the ALU stores in the same pass, computed under EO and kept otherwise (R102). -/
theorem nextFlags_eq (s : State) :
    nextFlags s = if sig s.cw .fi then packFlags (nextAlu s).z (nextAlu s).c else s.flags := by
  unfold nextFlags nextAlu
  cases sig s.cw .eo <;> rfl

/-- What a committing pass leaves in the ALU's stored values and in FLAGS (R95, R96, R102). -/
theorem commit_computesFlags (s : State) :
    (sig s.cw .eo = true → (commit s).aluRes = (if sig s.cw .su then s.a - s.b else s.a + s.b) ∧
      (commit s).aluZ = decide ((commit s).aluRes = 0) ∧
      (commit s).aluC = (if sig s.cw .su then decide (s.b.toNat ≤ s.a.toNat) else decide (255 < s.a.toNat + s.b.toNat))) ∧
    (sig s.cw .eo = false → (commit s).aluRes = s.aluRes ∧ (commit s).aluZ = s.aluZ ∧ (commit s).aluC = s.aluC) ∧
    (sig s.cw .fi = true → zeroFlag (commit s).flags = (commit s).aluZ ∧ carryFlag (commit s).flags = (commit s).aluC) ∧
    (sig s.cw .fi = false → (commit s).flags = s.flags) := by
  simp only [commit_aluRes, commit_aluZ, commit_aluC, commit_flags, nextFlags_eq]
  refine ⟨fun he => ?_, fun he => ?_, fun hi => ?_, fun hi => ?_⟩
  · simp only [nextAlu_of_eo he]
    refine ⟨aluCompute_res s.a s.b _, aluCompute_z s.a s.b _, ?_⟩
    cases sig s.cw .su
    · exact aluCompute_add_c s.a s.b
    · exact aluCompute_sub_c s.a s.b
  · rw [nextAlu_of_not_eo he]
    exact ⟨rfl, rfl, rfl⟩
  · rw [if_pos hi]
    exact ⟨zeroFlag_packFlags _ _, carryFlag_packFlags _ _⟩
  · rw [if_neg (by simp [hi])]

/-- Settles O20: `commit` after the latch pass, which keeps the registers and FLAGS. -/
theorem highTickComputesFlags : Obligations.HighTickComputesFlags := by
  intro b s hf hr hp ht
  rw [(tick_of_no_fault hf hr hp ht).2]
  exact commit_computesFlags (latchPass s)

/-- A pass that commits stores under RI only, at the old MAR (R89, R50). -/
theorem commit_ramAt (s : State) (a : Nat) : (commit s).ramAt a =
    if sig s.cw .ri = true ∧ a = s.mar.toNat then (commit s).bus.setWidth 16 else s.ramAt a := by
  show (nextRam s).read a = _
  unfold nextRam
  by_cases hi : sig s.cw .ri = true
  · simp [hi, State.ramAt]
  · simp [hi, State.ramAt]

/-- Settles O21: of the things a tick can do (`tick_cases`) only `commit` writes RAM. -/
theorem tickStoresOnlyAtOldMar : Obligations.TickStoresOnlyAtOldMar := by
  intro b s a
  obtain ⟨h, hn⟩ | ⟨hf, hh, ⟨hp, h⟩ | ⟨hp, ⟨-, h⟩ | ⟨-, -, -, h⟩ | ⟨-, -, h⟩⟩⟩ := tick_cases b s
  · rw [h, if_neg]
    rintro ⟨hf, hr, -⟩
    exact hn.elim (fun e => e hf) (not_frozenTick_of_runs hr)
  · rw [h, if_neg (by simp [hp])]
    rfl
  · rw [h, if_neg (by simp)]
    rfl
  · rw [h, if_neg (by simp)]
    rfl
  · have hr : b = true ∨ s.halt = .low := by
      cases b <;> cases hl : s.halt <;> simp_all
    rw [h, commit_ramAt]
    simp only [hf, hr, hp, commit_fault, latchPass_fault, latchPass_cw, latchPass_mar, true_and]
    rfl

/-- Settles O22: the three cases of the executing pass in R135's order, contention counted by `drivers_length`. -/
theorem highTickFaults : Obligations.HighTickFaults := by
  intro b s hf hr hp
  have hpass : latchPass s = { s with
      phase := .high, cw := s.fetchedWord, halt := if sig s.fetchedWord .hlt then .high else s.halt } := by
    rw [latchPass, hp]
    rfl
  rw [← drivers_length]
  split
  next hc =>
    rw [tick_contends hf hr hp ((contends_iff _).2 hc), hpass]
    rfl
  next hc =>
    have hn : contends s.fetchedWord = false := by
      rwa [← contends_iff, Bool.not_eq_true] at hc
    split
    next hm =>
      rw [tick_outOfRange hf hr hp hn (by simpa [accessesRam] using hm.1) (Nat.not_lt.2 hm.2), hpass]
      rfl
    next hm =>
      have hin (ha : accessesRam s.fetchedWord = true) : s.InRam s.mar.toNat :=
        Nat.lt_of_not_le fun hle => hm ⟨by simpa [accessesRam] using ha, hle⟩
      rw [tick_commit hf hr hp hn hin]
      exact hf

/-- A read after a write to a cell of RAM (R37). -/
theorem State.writeCell_ramAt {a : Nat} (v : Word) (h : s.InRam a) (c : Nat) :
    (s.writeCell a v).ramAt c = if c = a then v else s.ramAt c := by
  simp [State.ramAt, h]

/-- Settles O23: `writeCell` acts on one cell, and a pass without contention commits or raises OutOfRange. -/
theorem ramPrimitives : Obligations.RamPrimitives := by
  refine ⟨fun s a v h => ⟨?_, fun c hc => ?_, ?_⟩, fun s hc => ⟨fun hm hi => ?_, fun hm hi ho => ?_, fun hm ha => ?_⟩⟩
  · rw [State.writeCell_ramAt _ h, if_pos rfl]
  · rw [State.writeCell_ramAt _ h, if_neg hc]
  · simp [State.writeCell_eq]
  · rw [executingPass_commit hc fun _ => hm, commit_ramAt, if_pos ⟨hi, rfl⟩]
  · have hram : nextRam s = s.ram := by simp [nextRam, hi]
    have hdrive : willWrite s.cw .ram = true := by simp [willWrite, hi, ho]
    rw [executingPass_commit hc fun _ => hm, commit_bus, resolvedBus_of_willWrite hc hdrive]
    exact ⟨lowByte_eq_ofNat _, hram⟩
  · exact executingPass_outOfRange hc (by simpa [accessesRam] using ha) hm

end Sys2Proof.Machine
end

section
/-! PROOFS. The frame of every instruction (spec/43_instructions.md R116 to R118), said once: which components a next state
keeps, and what it may hold where it does not. -/

namespace Sys2Proof.Machine

variable {s t : State} {i : Instr} {effect : State → State}

/-- Where an instruction's rules leave it: `t` holds what `s` held in every component but the timing, MAR, PC and the Bus,
save what the disjunct of the component allows to the instructions that name it (R116 to R130). -/
structure Frame (i : Instr) (s t : State) : Prop where
  freq : t.freq = s.freq
  drive : t.drive = s.drive
  ramSize : t.ramSize = s.ramSize
  hltOpcode : t.hltOpcode = s.hltOpcode
  romA : t.romA = s.romA
  romB : t.romB = s.romB
  ir : t.ir = s.ir ∨ t.ir = (encode s.hltOpcode i).setWidth 16
  fault : t.fault = none ∨ t.fault = some .outOfRange ∧ (¬ s.InRam s.pc.toNat ∨ ¬ s.InRam i.operand.toNat)
  ram : t.ram = s.ram ∨
    ∃ n, i = .sta n ∧ s.InRam n.toNat ∧ t.fault = none ∧ t.ram = s.ram.write n.toNat (s.a.setWidth 16)
  a : t.a = s.a ∨ ∃ n, i ∈ [.lda n, .ldi n, .add n, .sub n]
  arithmetic : (t.b = s.b ∧ t.flags = s.flags ∧ t.aluRes = s.aluRes ∧ t.aluZ = s.aluZ ∧ t.aluC = s.aluC) ∨
    ∃ n, i ∈ [.add n, .sub n]
  out : t.out = s.out ∨ ∃ n, i = .out n
  halt : t.halt = s.halt ∨ ∃ n, i = .hlt n

/-- A frozen run keeps everything. -/
theorem Frame.refl (hf : s.fault = none) : Frame i s s := by
  constructor <;> simp [hf]

/-- T1's fault keeps everything but MAR, the Bus and the timing (R117). -/
theorem Frame.fetchFault (hin : ¬ s.InRam s.pc.toNat) : Frame i s s.fetchFault := by
  constructor <;> simp [State.fetchFault, hin]

/-- The fetch, then an operand step: T3's fault keeps everything but MAR, the Bus, IR, PC and the timing (R117), so only the
effect on a cell of RAM is left to say. -/
theorem Frame.atOperand {w : ControlWord} (he : s.InRam i.operand.toNat → Frame i s (effect
      (((s.fetchInstr (encode s.hltOpcode i)).setMar (operandByte i.operand)).setBus (operandByte i.operand)))) :
    Frame i s ((s.fetchInstr (encode s.hltOpcode i)).atOperand i.operand w effect) := by
  by_cases hin : s.InRam i.operand.toNat
  · rw [State.atOperand_of_inRam (s := s.fetchInstr _) _ hin]
    exact he hin
  · rw [State.atOperand_of_outside (s := s.fetchInstr _) _ hin]
    constructor <;> simp [hin]

/-- A meaning answers a state within the frame when its effect does, or runs the ticks. -/
theorem cycle_frame (h : cycle i effect s = .next t)
    (he : s.fault = none → Frame i s (effect (s.fetchInstr (encode s.hltOpcode i)))) :
    Frame i s t ∨ ¬ (s.AtCycleStart ∧ s.HasReferenceFirmware) ∧ t = runCycle (s.placeInstr (encode s.hltOpcode i)) := by
  obtain ⟨hf, ⟨-, rfl⟩ | ⟨-, rfl⟩ | ⟨hin, rfl⟩ | hrun⟩ := cycle_next_cases h
  · exact .inl (.refl hf)
  · exact .inl (he hf)
  · exact .inl (.fetchFault hin)
  · exact .inr hrun

/-- Every next state of an instruction is within its frame, or is what the ticks give outside the start of a cycle of the
reference firmware (log 8). -/
theorem exec_frame_or_runCycle (h : exec i s = .next t) :
    Frame i s t ∨ ¬ (s.AtCycleStart ∧ s.HasReferenceFirmware) ∧ t = runCycle (s.placeInstr (encode s.hltOpcode i)) := by
  unfold exec at h
  cases i with
  | nop | unassigned10 | unassigned11 | unassigned12 | unassigned13 | unassigned14 | ldi | jmp | out =>
    exact cycle_frame h fun hf => by constructor <;> simp [hf]
  | jc | jz =>
    exact cycle_frame h fun hf => by split <;> constructor <;> simp [hf]
  | hlt =>
    exact cycle_frame h fun hf => by split <;> constructor <;> simp [hf]
  | lda n | add n | sub n =>
    exact cycle_frame h fun hf => Frame.atOperand fun _ => by constructor <;> simp [hf]
  | sta n =>
    refine cycle_frame h fun hf => Frame.atOperand fun hin => ?_
    have hin' : s.InRam n.toNat := hin
    constructor <;> simp [hf, hin']

/-- At the start of a cycle of the reference firmware every next state of an instruction is within its frame. -/
theorem exec_frame (hc : s.AtCycleStart) (hr : s.HasReferenceFirmware) (h : exec i s = .next t) : Frame i s t := by
  obtain hframe | ⟨hn, -⟩ := exec_frame_or_runCycle h
  · exact hframe
  · exact absurd ⟨hc, hr⟩ hn

/-- What the fault clause of the frame leaves of it for R132: none, or OutOfRange. -/
theorem Frame.fault_none_or (h : Frame i s t) : t.fault = none ∨ t.fault = some .outOfRange :=
  h.fault.imp_right And.left

/-- Every instruction but STA keeps RAM. -/
theorem Frame.ramAt (h : Frame i s t) (hi : ∀ n, i ≠ .sta n) (a : Nat) : t.ramAt a = s.ramAt a := by
  obtain hram | ⟨n, rfl, -⟩ := h.ram
  · rw [State.ramAt, hram, State.ramAt]
  · exact absurd rfl (hi n)

/-- STA keeps every cell but the one its operand names. -/
theorem Frame.ramAt_of_ne {n : Nibble} (h : Frame (.sta n) s t) {a : Nat} (ha : a ≠ n.toNat) : t.ramAt a = s.ramAt a := by
  obtain hram | ⟨m, hm, -, -, hram⟩ := h.ram
  · rw [State.ramAt, hram, State.ramAt]
  · cases hm
    rw [State.ramAt, hram, Mem.read_write, if_neg ha, State.ramAt]

/-- Settles O50: the frame of the eleven instructions, none of which its disjuncts name but for OUT and HALT. -/
theorem frameIdleOutputJumpsAndHalt : Obligations.FrameIdleOutputJumpsAndHalt := by
  intro s t n i hc hr hi h
  have hframe := exec_frame hc hr h
  have hkind : (∀ m, i ≠ .sta m) ∧ (∀ m, i ∉ [.lda m, .ldi m, .add m, .sub m]) ∧ (∀ m, i ∉ [.add m, .sub m]) ∧
      (∀ m, i = .out m → i = .out n) ∧ ∀ m, i = .hlt m → i = .hlt n := by
    simp only [List.mem_cons, List.not_mem_nil, or_false] at hi
    rcases hi with rfl | rfl | rfl | rfl | rfl | rfl | rfl | rfl | rfl | rfl | rfl <;> simp
  obtain ⟨hsta, hacc, harith, hout, hhlt⟩ := hkind
  obtain ⟨hb, hflags, hres, hz, hcarry⟩ := hframe.arithmetic.resolve_right fun ⟨m, hm⟩ => harith m hm
  exact ⟨hframe.a.resolve_right fun ⟨m, hm⟩ => hacc m hm, hb, hflags,
    fun ho => hframe.out.resolve_right fun ⟨m, hm⟩ => ho (hout m hm), hres, hz, hcarry,
    fun ho => hframe.halt.resolve_right fun ⟨m, hm⟩ => ho (hhlt m hm), hframe.freq, hframe.drive, hframe.ramSize,
    hframe.hltOpcode, hframe.romA, hframe.romB, hframe.fault_none_or, hframe.ramAt hsta⟩

/-- Settles O51: the frame of LDA and LDI, which its disjuncts name for A alone. -/
theorem frameAccumulatorLoads : Obligations.FrameAccumulatorLoads := by
  intro s t n i hc hr hi h
  have hframe := exec_frame hc hr h
  have hkind : (∀ m, i ≠ .sta m) ∧ (∀ m, i ∉ [.add m, .sub m]) ∧ (∀ m, i ≠ .out m) ∧ ∀ m, i ≠ .hlt m := by
    simp only [List.mem_cons, List.not_mem_nil, or_false] at hi
    rcases hi with rfl | rfl <;> simp
  obtain ⟨hsta, harith, hout, hhlt⟩ := hkind
  obtain ⟨hb, hflags, hres, hz, hcarry⟩ := hframe.arithmetic.resolve_right fun ⟨m, hm⟩ => harith m hm
  exact ⟨hb, hflags, hframe.out.resolve_right fun ⟨m, hm⟩ => hout m hm, hres, hz, hcarry,
    hframe.halt.resolve_right fun ⟨m, hm⟩ => hhlt m hm, hframe.freq, hframe.drive, hframe.ramSize, hframe.hltOpcode,
    hframe.romA, hframe.romB, hframe.fault_none_or, hframe.ramAt hsta⟩

/-- Settles O52: the frame of ADD and SUB, which its disjuncts name for A and the arithmetic components. -/
theorem frameArithmetic : Obligations.FrameArithmetic := by
  intro s t n i hc hr hi h
  have hframe := exec_frame hc hr h
  have hkind : (∀ m, i ≠ .sta m) ∧ (∀ m, i ≠ .out m) ∧ ∀ m, i ≠ .hlt m := by
    simp only [List.mem_cons, List.not_mem_nil, or_false] at hi
    rcases hi with rfl | rfl <;> simp
  obtain ⟨hsta, hout, hhlt⟩ := hkind
  exact ⟨hframe.out.resolve_right fun ⟨m, hm⟩ => hout m hm, hframe.halt.resolve_right fun ⟨m, hm⟩ => hhlt m hm,
    hframe.freq, hframe.drive, hframe.ramSize, hframe.hltOpcode, hframe.romA, hframe.romB, hframe.fault_none_or,
    hframe.ramAt hsta⟩

/-- Settles O53: the frame of STA, which its disjuncts name for RAM alone, and for RAM only without a fault. -/
theorem frameStore : Obligations.FrameStore := by
  intro s t n hc hr h
  have hframe := exec_frame hc hr h
  obtain ⟨hb, hflags, hres, hz, hcarry⟩ := hframe.arithmetic.resolve_right (by simp)
  refine ⟨hframe.a.resolve_right (by simp), hb, hflags, hframe.out.resolve_right (by simp), hres, hz, hcarry,
    hframe.halt.resolve_right (by simp), hframe.freq, hframe.drive, hframe.ramSize, hframe.hltOpcode, hframe.romA,
    hframe.romB, hframe.fault_none_or, fun a ha => hframe.ramAt_of_ne ha, fun hfault a => ?_⟩
  obtain hram | ⟨-, -, -, hnone, -⟩ := hframe.ram
  · rw [State.ramAt, hram, State.ramAt]
  · rw [hnone] at hfault
    cases hfault

end Sys2Proof.Machine
end

section
/-! PROOFS. What ticks, instructions, steps and host operations keep: the invariant of well-formed states (spec/10_state.md R17,
R28 to R30), the absence of a fault under the reference firmware (spec/43_instructions.md R117), and RAM from address 256 up
(spec/20_memory.md R36). -/

namespace Sys2Proof.Machine

variable {s t : State} {i : Instr} {P : State → Prop}

/-- What every tick, every frame and the placing of a word at PC keep, every instruction keeps. -/
theorem exec_induction (htick : ∀ b x, P x → P (tick b x)) (hframe : ∀ i x y, Frame i x y → P x → P y)
    (hplace : ∀ x w, P x → P (x.placeInstr w)) (h : exec i s = .next t) (hs : P s) : P t := by
  obtain hf | ⟨-, rfl⟩ := exec_frame_or_runCycle h
  · exact hframe i s t hf hs
  · exact ticksToBoundary_induction htick 16 _ (hplace _ _ hs)

/-- The same for every step. -/
theorem step_induction (htick : ∀ b x, P x → P (tick b x)) (hframe : ∀ i x y, Frame i x y → P x → P y)
    (hplace : ∀ x w, P x → P (x.placeInstr w)) (h : step s = .next t) (hs : P s) : P t := by
  obtain ⟨i, -, hi⟩ | ⟨-, -, rfl⟩ := step_next_cases h
  · exact exec_induction htick hframe hplace hi hs
  · exact ticksToBoundary_induction htick 16 s hs

/-- A byte in IR leaves its upper byte 0 (R17, decision D9). -/
theorem upperByte_setWidth (w : Byte) : (w.setWidth 16 : Word).extractLsb' 8 8 = 0 := by
  apply BitVec.eq_of_toNat_eq
  rw [BitVec.extractLsb'_toNat, Nat.shiftRight_eq_div_pow, BitVec.toNat_setWidth]
  have := w.isLt
  simp
  omega

/-- A pass that makes its RAM access inside RAM commits to a well-formed state. -/
theorem commit_inv (hs : s.Inv) (hin : accessesRam s.cw = true → s.InRam s.mar.toNat) : (commit s).Inv := by
  obtain ⟨⟨hwf, hwa, hwb⟩, hir, hfreq, hf⟩ := hs
  refine ⟨⟨?_, hwa, hwb⟩, ?_, hfreq, hf⟩
  · rw [commit_ram, nextRam]
    split
    next hi => exact Mem.wf_write _ hwf (hin (by simp [accessesRam, hi]))
    next => exact hwf
  · rw [commit_ir, nextIr]
    split
    · exact upperByte_setWidth _
    · exact hir

/-- A fault raised in the engine is not FatalStartup (R132). -/
theorem State.Inv.raiseFault (hs : s.Inv) {k : FaultKind} (hk : k ≠ .fatalStartup) : (s.raiseFault k).Inv := by
  obtain ⟨hmem, hir, hfreq, -⟩ := hs
  exact ⟨hmem, hir, hfreq, fun e => hk (Option.some.inj e)⟩

theorem tick_inv (b : Bool) (hs : s.Inv) : (tick b s).Inv := by
  obtain ⟨h, -⟩ | ⟨-, -, ⟨-, h⟩ | ⟨-, ⟨-, h⟩ | ⟨-, -, -, h⟩ | ⟨-, hin, h⟩⟩⟩ := tick_cases b s <;> rw [h]
  · exact hs
  · exact hs
  · exact State.Inv.raiseFault (s := latchPass s) hs (by decide)
  · exact State.Inv.raiseFault (s := latchPass s) hs (by decide)
  · exact commit_inv (s := latchPass s) hs hin

theorem writeCell_inv (a : Nat) (v : Word) (hs : s.Inv) : (s.writeCell a v).Inv := by
  obtain ⟨⟨hwf, hwa, hwb⟩, hir, hfreq, hf⟩ := hs
  rw [State.writeCell]
  split
  next hin => exact ⟨⟨Mem.wf_write v hwf hin, hwa, hwb⟩, hir, hfreq, hf⟩
  next => exact ⟨⟨hwf, hwa, hwb⟩, hir, hfreq, hf⟩

theorem placeInstr_inv (w : Byte) (hs : s.Inv) : (s.placeInstr w).Inv := by
  rw [State.placeInstr]
  split
  · exact hs
  · exact writeCell_inv _ _ hs

/-- The frame keeps the invariant: STA writes inside RAM, the fetch puts a byte in IR, and the fault is OutOfRange. -/
theorem Frame.inv (h : Frame i s t) (hs : s.Inv) : t.Inv := by
  obtain ⟨⟨hwf, hwa, hwb⟩, hir, hfreq, -⟩ := hs
  refine ⟨⟨?_, h.romA ▸ hwa, h.romB ▸ hwb⟩, ?_, h.freq ▸ hfreq, ?_⟩
  · rw [h.ramSize]
    obtain hram | ⟨n, -, hin, -, hram⟩ := h.ram <;> rw [hram]
    · exact hwf
    · exact Mem.wf_write _ hwf hin
  · obtain hi | hi := h.ir <;> rw [hi]
    · exact hir
    · exact upperByte_setWidth _
  · obtain hf | hf := h.fault_none_or <;> rw [hf] <;> decide

theorem exec_inv (h : exec i s = .next t) (hs : s.Inv) : t.Inv :=
  exec_induction (fun b _ => tick_inv b) (fun _ _ _ => Frame.inv) (fun _ w => placeInstr_inv w) h hs

/-- Settles O56: the invariant over the ticks, the frame of an instruction and the placing of its word. -/
theorem stepKeepsWellFormedState : Obligations.StepKeepsWellFormedState :=
  fun _ _ hs h => step_induction (fun b _ => tick_inv b) (fun _ _ _ => Frame.inv) (fun _ w => placeInstr_inv w) h hs

/-- Every host operation keeps the invariant: reset empties RAM and IR, and a program is copied only when it fits. -/
theorem hostOp_inv {op : HostOp} (h : hostOp op s = .next t) (hs : s.Inv) : t.Inv := by
  cases op with
  | tick b => cases h; exact tick_inv b hs
  | setHaltInput level => cases h; exact hs
  | setFrequency hz =>
    obtain ⟨hz, rfl⟩ := setFrequency_next h
    obtain ⟨hmem, hir, -, hf⟩ := hs
    exact ⟨hmem, hir, hz, hf⟩
  | reset =>
    cases h
    obtain ⟨⟨-, hwa, hwb⟩, -, hfreq, hf⟩ := hs
    exact ⟨⟨rfl, hwa, hwb⟩, upperByte_setWidth 0, hfreq, hf⟩
  | loadProgram words =>
    obtain ⟨-, rfl⟩ | ⟨hlen, rfl⟩ := loadProgram_next_cases h
    · exact hs.raiseFault (by decide)
    · obtain ⟨⟨hwf, hwa, hwb⟩, hir, hfreq, hf⟩ := hs
      exact ⟨⟨Mem.wf_writeAll _ hwf (by simpa using hlen), hwa, hwb⟩, hir, hfreq, hf⟩

/-- Settles O57: `hostOp_inv` and `exec_inv`. -/
theorem hostOperationsKeepWellFormedState : Obligations.HostOperationsKeepWellFormedState :=
  ⟨fun _ _ _ hs h => hostOp_inv h hs, fun _ _ _ hs h => exec_inv h hs⟩

/-- The banks of the reference firmware are in canonical form (R39, R43). -/
theorem wf_referenceBanks (h : HltOpcode) :
    Mem.wf Config.romSize (referenceBankA h) = true ∧ Mem.wf Config.romSize (referenceBankB h) = true :=
  ⟨wf_bankA (referenceRom h), wf_bankB (referenceRom h)⟩

theorem reset_memoriesWf : State.reset.MemoriesWf := ⟨Mem.wf_nil _, wf_referenceBanks Config.hltOpcode⟩

theorem reset_inv : State.reset.Inv := ⟨reset_memoriesWf, by decide, one_pos, by decide⟩

theorem reset_hasReferenceFirmware : State.reset.HasReferenceFirmware := ⟨rfl, rfl⟩

/-- Settles O58: RAM is empty, the banks are tabulated, and the other components are the constants of R32. -/
theorem resetStateWellFormed : Obligations.ResetStateWellFormed := ⟨reset_inv, rfl, reset_hasReferenceFirmware⟩

/-- A tick writes no cell from address 256 up: MAR has eight bits (R36, decision D8). -/
theorem tick_ramAt_of_ge (b : Bool) (s : State) {a : Nat} (ha : 256 ≤ a) : (tick b s).ramAt a = s.ramAt a := by
  have hmar := s.mar.isLt
  rw [tickStoresOnlyAtOldMar b s a, if_neg]
  rintro ⟨-, -, -, -, -, e⟩
  omega

/-- PC has eight bits too (decision D9). -/
theorem placeInstr_ramAt_of_ge (s : State) (w : Byte) {a : Nat} (ha : 256 ≤ a) : (s.placeInstr w).ramAt a = s.ramAt a := by
  have hpc : a ≠ s.pc.toNat := by have := s.pc.isLt; omega
  rw [State.placeInstr]
  split
  · rfl
  · rw [State.ramAt, State.writeCell_ram]
    split
    · rw [Mem.read_write, if_neg hpc, State.ramAt]
    · rfl

/-- An operand has four bits. -/
theorem Frame.ramAt_of_ge (h : Frame i s t) {a : Nat} (ha : 256 ≤ a) : t.ramAt a = s.ramAt a := by
  obtain hram | ⟨n, -, -, -, hram⟩ := h.ram <;> rw [State.ramAt, hram]
  · rfl
  · have hn : a ≠ n.toNat := by have := n.isLt; omega
    rw [Mem.read_write, if_neg hn, State.ramAt]

/-- Settles O60: every address the datapath forms is below 256. -/
theorem datapathKeepsUpperRam : Obligations.DatapathKeepsUpperRam := by
  intro s a ha
  have htick (b : Bool) (x : State) (hx : x.ramAt a = s.ramAt a) : (tick b x).ramAt a = s.ramAt a :=
    (tick_ramAt_of_ge b x ha).trans hx
  have hframe (i : Instr) (x y : State) (hxy : Frame i x y) (hx : x.ramAt a = s.ramAt a) : y.ramAt a = s.ramAt a :=
    (hxy.ramAt_of_ge ha).trans hx
  have hplace (x : State) (w : Byte) (hx : x.ramAt a = s.ramAt a) : (x.placeInstr w).ramAt a = s.ramAt a :=
    (placeInstr_ramAt_of_ge x w ha).trans hx
  exact ⟨fun b => tick_ramAt_of_ge b s ha, fun _ _ h => exec_induction htick hframe hplace h rfl,
    fun _ h => step_induction htick hframe hplace h rfl⟩

end Sys2Proof.Machine
end

section
/-! PROOFS. The firmware: the reference image word by word (spec/42_reference_firmware.md R106 to R114), and loading and
construction (spec/20_memory.md R42, spec/70_reset_and_hazards.md R148). -/

namespace Sys2Proof.Machine

/-- A read of the reference banks at an assembled address is the reference word of its fields (R112, R113). -/
theorem romRead_reference (h : HltOpcode) (f : BitVec 2) (o : Nibble) (t : BitVec 3) :
    romRead (referenceBankA h) (referenceBankB h) (romAddress f o t) =
      referenceWord h.value (zeroFlag f) (carryFlag f) o t := by
  obtain ⟨hz, hc, ho, ht⟩ := romAddress_fields f o t
  rw [referenceBankA, referenceBankB, romRead_banks, referenceRom, BitVec.ofNat_toNat, BitVec.setWidth_eq, referenceImage,
    hz, hc, ho, ht]

/-- Settles O11: the table of the model and the table of the statement agree on all flags, opcodes and steps, for each of the
six HLT opcodes. -/
theorem referenceFirmwareWords : Obligations.ReferenceFirmwareWords := by
  intro h zf cf op t
  rw [romRead_reference, zeroFlag_packFlags, carryFlag_packFlags]
  revert zf cf op t
  cases h <;> decide +kernel

/-- The words of T2, T3 and T4 of an instruction, by its flags, as R108 and R109 list them. -/
def rowOf (zf cf : Bool) : Instr → ControlWord × ControlWord × ControlWord
  | .lda _ => (0x0012, 0x0048, 0)
  | .add _ => (0x0012, 0x0408, 0x8140)
  | .sub _ => (0x0012, 0x0408, 0x8340)
  | .sta _ => (0x0012, 0x0084, 0)
  | .ldi _ => (0x0050, 0, 0)
  | .jmp _ => (0x4010, 0, 0)
  | .jc _ => (if cf then 0x4010 else 0, 0, 0)
  | .jz _ => (if zf then 0x4010 else 0, 0, 0)
  | .out _ => (0x0880, 0, 0)
  | .hlt _ => (0x0001, 0, 0)
  | .nop _ | .unassigned10 _ | .unassigned11 _ | .unassigned12 _ | .unassigned13 _ | .unassigned14 _ => (0, 0, 0)

/-- The firmware's row at an instruction's opcode is the instruction's row, for every HLT opcode (R108, R109, R130). -/
theorem executeWords_opcode (h : HltOpcode) (zf cf : Bool) (i : Instr) :
    executeWords h.value zf cf (i.opcode h) = rowOf zf cf i := by
  cases h <;> cases i <;> rfl

/-- Every row of the firmware is an instruction's row: every opcode is an instruction's (R60). -/
theorem executeWords_eq_rowOf (h : HltOpcode) (zf cf : Bool) (op : Nibble) :
    ∃ i : Instr, i.opcode h = op ∧ executeWords h.value zf cf op = rowOf zf cf i := by
  have hop : (decode h (op ++ 0#4)).opcode h = op :=
    (fields_decode h (op ++ 0#4)).1.trans (Laws.WordFields.fields_of_append op 0#4).1
  refine ⟨decode h (op ++ 0#4), hop, ?_⟩
  rw [← executeWords_opcode h, hop]

/-- The words that stand in the reference firmware (R107 to R110). -/
def referenceWords : List ControlWord :=
  [0x2002, 0x1028, 0x0012, 0x0048, 0x0408, 0x8140, 0x8340, 0x0084, 0x0050, 0x4010, 0x0880, 0x0001, 0x0000]

theorem rowOf_mem (zf cf : Bool) (i : Instr) : (rowOf zf cf i).1 ∈ referenceWords ∧
    (rowOf zf cf i).2.1 ∈ referenceWords ∧ (rowOf zf cf i).2.2 ∈ referenceWords := by
  cases i with
  | jc => cases cf <;> simp [rowOf, referenceWords]
  | jz => cases zf <;> simp [rowOf, referenceWords]
  | _ => simp [rowOf, referenceWords]

theorem referenceWord_mem (h : HltOpcode) (zf cf : Bool) (op : Nibble) (t : BitVec 3) :
    referenceWord h.value zf cf op t ∈ referenceWords := by
  obtain ⟨i, -, hrow⟩ := executeWords_eq_rowOf h zf cf op
  obtain ⟨h2, h3, h4⟩ := rowOf_mem zf cf i
  rw [referenceWord, hrow]
  split_ifs
  exacts [by decide, by decide, h2, h3, h4, by decide]

/-- Each of the thirteen words has at most one driver, and one when it reads the Bus (R114). -/
theorem drivers_of_mem_referenceWords : ∀ w ∈ referenceWords,
    (drivers w).length ≤ 1 ∧ (readsBus w = true → (drivers w).length = 1) := by
  simp only [referenceWords, List.forall_mem_cons, List.not_mem_nil, IsEmpty.forall_iff, implies_true, and_true]
  decide

theorem contends_referenceWord (h : HltOpcode) (zf cf : Bool) (op : Nibble) (t : BitVec 3) :
    contends (referenceWord h.value zf cf op t) = false := by
  obtain ⟨hd, -⟩ := drivers_of_mem_referenceWords _ (referenceWord_mem h zf cf op t)
  rw [← Bool.not_eq_true, contends_iff]
  omega

/-- Settles O12: every word of the image is one of the thirteen. -/
theorem referenceWordsOneDriver : Obligations.ReferenceWordsOneDriver := by
  intro h a
  rw [referenceImage]
  exact drivers_of_mem_referenceWords _ (referenceWord_mem h _ _ _ _)

@[simp] theorem formatBits_length (v : ControlWord) (n : Nat) : (formatBits v n).length = n := by
  induction n with
  | zero => rfl
  | succ n ih => rw [formatBits, List.length_cons, ih]

theorem formatBits_binary (v : ControlWord) (n : Nat) : ∀ c ∈ formatBits v n, c = '0' ∨ c = '1' := by
  induction n with
  | zero => simp [formatBits]
  | succ n ih =>
    rw [formatBits, List.forall_mem_cons]
    refine ⟨?_, ih⟩
    cases v.getLsbD n <;> simp

/-- Character `k` of `n` written bits is bit `n - 1 - k` (R62). -/
theorem formatBits_getElem? (v : ControlWord) (n k : Nat) (h : k < n) :
    decide ((formatBits v n)[k]? = some '1') = v.getLsbD (n - 1 - k) := by
  induction n generalizing k with
  | zero => omega
  | succ n ih =>
    cases k with
    | zero => cases hv : v.getLsbD n <;> simp [formatBits, hv]
    | succ k =>
      rw [formatBits, List.getElem?_cons_succ, ih k (by omega)]
      congr 1
      omega

/-- A word written as a line is read back (R62, R113). -/
theorem parseLine_formatLine (v : ControlWord) : parseLine (formatLine v) = some v :=
  (firmwareLineFormat.1 _ _).2
    ⟨formatBits_length v 16, formatBits_binary v 16, fun k hk => (formatBits_getElem? v 16 k hk).symm⟩

theorem skipsLine_formatLine (v : ControlWord) : skipsLine (formatLine v) = false := by
  show skipsLine ((if v.getLsbD 15 then '1' else '0') :: formatBits v 15) = false
  cases v.getLsbD 15 <;> rfl

/-- A data line puts its word before those of the lines after it (R42). -/
theorem parseLines_cons_of_data {l : Line} (ls : List Line) (h : skipsLine l = false) :
    parseLines (l :: ls) = (parseLine l).bind fun v => (parseLines ls).map (v :: ·) := by
  rw [parseLines, if_neg (by simp [h])]
  cases parseLine l <;> cases parseLines ls <;> rfl

theorem parseLines_formatLine (ws : List ControlWord) : parseLines (ws.map formatLine) = some ws := by
  induction ws with
  | nil => rfl
  | cons v ws ih => rw [List.map_cons, parseLines_cons_of_data _ (skipsLine_formatLine v), parseLine_formatLine, ih]; rfl

/-- Lines without a control word change nothing (R42, R62). -/
theorem parseLines_filter (ls : List Line) : parseLines (ls.filter fun l => !skipsLine l) = parseLines ls := by
  induction ls with
  | nil => rfl
  | cons l ls ih =>
    cases h : skipsLine l
    · rw [List.filter_cons_of_pos (by simp [h]), parseLines_cons_of_data _ h, parseLines_cons_of_data _ h, ih]
    · rw [List.filter_cons_of_neg (by simp [h]), parseLines_cons_of_skipsLine _ h, ih]

/-- There are as many words as data lines. -/
theorem length_of_parseLines {ls : List Line} {vs : List ControlWord} (h : parseLines ls = some vs) :
    vs.length = (ls.filter fun l => !skipsLine l).length := by
  induction ls generalizing vs with
  | nil => cases h; rfl
  | cons l ls ih =>
    cases hl : skipsLine l
    · rw [parseLines_cons_of_data _ hl] at h
      simp only [Option.bind_eq_some_iff, Option.map_eq_some_iff] at h
      obtain ⟨v, -, us, hus, rfl⟩ := h
      rw [List.filter_cons_of_pos (by simp [hl]), List.length_cons, List.length_cons, ih hus]
    · rw [parseLines_cons_of_skipsLine _ hl] at h
      rw [List.filter_cons_of_neg (by simp [hl]), ih h]

/-- A malformed data line anywhere leaves no words (R42). -/
theorem parseLines_of_malformed {ls : List Line} {l : Line} (hmem : l ∈ ls) (hs : skipsLine l = false)
    (hp : parseLine l = none) : parseLines ls = none := by
  induction ls with
  | nil => cases hmem
  | cons k ls ih =>
    rcases List.mem_cons.1 hmem with rfl | hmem
    · rw [parseLines_cons_of_data _ hs, hp]
      rfl
    · cases hk : skipsLine k
      · rw [parseLines_cons_of_data _ hk, ih hmem]
        cases parseLine k <;> rfl
      · rw [parseLines_cons_of_skipsLine _ hk, ih hmem]

/-- What a resource whose lines parse loads (R42, decisions D18, D19). -/
theorem loadFirmware_of_parseLines {ls : List Line} {vs : List ControlWord} (h : parseLines ls = some vs) :
    loadFirmware (some ls) = if vs.length ≤ Config.romSize then
      some (bankA fun a => vs.getD a 0, bankB fun a => vs.getD a 0) else none := by
  rw [loadFirmware]
  simp only [h]

theorem loadFirmware_of_malformed {ls : List Line} (h : parseLines ls = none) : loadFirmware (some ls) = none := by
  rw [loadFirmware]
  simp only [h]

theorem loadFirmware_congr {ls ks : List Line} (h : parseLines ls = parseLines ks) :
    loadFirmware (some ls) = loadFirmware (some ks) := by
  rw [loadFirmware, loadFirmware]
  simp only [h]

/-- Settles O9: the written lines parse to the words, whose banks read back; skipped lines drop out of the parse. -/
theorem firmwareRoundTrip : Obligations.FirmwareRoundTrip := by
  refine ⟨fun ws hlen => ⟨_, _, ?_, romRead_banks fun a => ws.getD a 0⟩, fun ls => ?_⟩
  · exact (loadFirmware_of_parseLines (parseLines_formatLine ws)).trans (if_pos hlen)
  · exact loadFirmware_congr (parseLines_filter ls).symm

/-- The load fails on a malformed data line and on more data lines than the ROM has words (R42, decision D19). -/
theorem loadFirmware_eq_none {ls : List Line} (h : (∃ l ∈ ls, skipsLine l = false ∧ parseLine l = none) ∨
    512 < (ls.filter fun l => !skipsLine l).length) : loadFirmware (some ls) = none := by
  cases hp : parseLines ls with
  | none => exact loadFirmware_of_malformed hp
  | some vs =>
    rcases h with ⟨l, hmem, hs, hl⟩ | hlong
    · rw [parseLines_of_malformed hmem hs hl] at hp
      cases hp
    · rw [← length_of_parseLines hp] at hlong
      exact (loadFirmware_of_parseLines hp).trans (if_neg (Nat.not_le.2 hlong))

theorem construct_of_load_fails {h : HltOpcode} {n : Nat} {hz : Rat} {r : Option (List Line)} (hpos : 0 < hz)
    (hl : loadFirmware r = none) : construct h n hz r = .fault .startupFailed := by
  rw [construct, if_pos hpos]
  simp only [hl]

theorem construct_of_load {h : HltOpcode} {n : Nat} {hz : Rat} {r : Option (List Line)} {romA romB : Mem 8} (hpos : 0 < hz)
    (hl : loadFirmware r = some (romA, romB)) : construct h n hz r = .next (State.fresh h n hz romA romB) := by
  rw [construct, if_pos hpos]
  simp only [hl]

/-- Settles O10: construction follows the load; the fresh state is the one written out. -/
theorem constructionLoadsFirmware : Obligations.ConstructionLoadsFirmware :=
  fun _ _ _ hpos => ⟨construct_of_load_fails hpos rfl,
    fun _ h => construct_of_load_fails hpos (loadFirmware_eq_none h), fun _ _ _ hl => construct_of_load hpos hl⟩

end Sys2Proof.Machine
end

section
/-! PROOFS. The host's operations (spec/10_state.md R32 to R34, spec/20_memory.md R44, spec/40_engine_cycle.md R78 to R85). -/

namespace Sys2Proof.Machine

variable {s t : State}

/-- Settles O31: the fresh state with FAULT and the tick mode kept, field by field. -/
theorem resetValues : Obligations.ResetValues := fun _ => rfl

/-- Settles O32: reset writes constants over everything but what it keeps. -/
theorem resetIdempotent : Obligations.ResetIdempotent :=
  fun _ => ⟨rfl, ⟨rfl, rfl, rfl, rfl, rfl, rfl, rfl⟩, fun _ => rfl, rfl, rfl, rfl⟩

/-- Settles O26: no tick runs after a fault; reset and `loadProgram` keep a fault or raise one. -/
theorem faultNeverCleared : Obligations.FaultNeverCleared := by
  refine fun s hf => ⟨fun b => tick_of_fault b hf, fun op t h => ?_⟩
  cases op with
  | tick b => cases h; rwa [tick_of_fault b hf]
  | setFrequency hz => obtain ⟨-, rfl⟩ := setFrequency_next h; exact hf
  | setHaltInput level => cases h; exact hf
  | reset => cases h; exact hf
  | loadProgram words =>
    obtain ⟨-, rfl⟩ | ⟨-, rfl⟩ := loadProgram_next_cases h
    · exact Option.some_ne_none _
    · exact hf

/-- The host's tick has no effect after a fault or in a frozen run (R65, R133). -/
theorem hostTick_of_stopped (h : s.Stopped) : s.hostTick = s := by
  obtain hf | hz := h
  · exact tick_of_fault _ hf
  · obtain ⟨hd, hh⟩ := s.frozen_iff.1 hz
    rw [State.hostTick, hd, tick_of_frozen hh]

theorem ticks_of_stopped (n : Nat) (h : s.Stopped) : ticks n s = s := by
  induction n with
  | zero => rfl
  | succ n ih => rw [ticks, hostTick_of_stopped h, ih]

/-- Settles O30: with HALT HIGH a continuous run is frozen, and the second write undoes the first. -/
theorem haltInputPausesAndResumes : Obligations.HaltInputPausesAndResumes := by
  refine ⟨fun _ _ => rfl, fun n s hd hh => ?_⟩
  have hticks : ticks n (setHaltInput .high s) = setHaltInput .high s := ticks_of_stopped n (.inr ⟨hd, rfl⟩)
  refine ⟨hticks, ?_⟩
  rw [hticks]
  show { s with halt := .low } = s
  rw [← hh]

theorem all_isWord_iff (words : List Int) : words.all isWord = true ↔ ∀ v ∈ words, 0 ≤ v ∧ v ≤ 65535 := by
  simp [isWord]

/-- Settles O33: the three branches of `loadProgram`; a copy reads back by `Mem.read_writeAll`. -/
theorem loadProgramCopiesWords : Obligations.LoadProgramCopiesWords := by
  refine fun words s => ⟨fun hw hlen => ?_, fun hw hlen => ?_, fun ⟨v, hv, hbad⟩ _ => if_pos ?_⟩
  · have hall : ¬ words.all isWord = false := by simpa using (all_isWord_iff words).2 hw
    refine ⟨{ s with ram := s.ram.writeAll 0 (words.map (BitVec.ofInt 16)) }, ?_, rfl, fun a => ?_⟩
    · rw [hostOp, loadProgram, if_neg hall, if_neg (Nat.not_lt.2 hlen)]
    · rw [State.ramAt, Mem.read_writeAll, List.length_map]
      by_cases ha : a < words.length
      · simp [ha]
      · simp [ha, State.ramAt]
  · have hall : ¬ words.all isWord = false := by simpa using (all_isWord_iff words).2 hw
    rw [hostOp, loadProgram, if_neg hall, if_pos hlen]
    rfl
  · rw [← Bool.not_eq_true, all_isWord_iff]
    intro hw
    have := hw v hv
    omega

/-- The query answers the largest address below `n` with a cell that is not 0 (R34). -/
theorem highestNonZero_eq_some_iff {w : Nat} (m : Mem w) (n a : Nat) :
    m.highestNonZero n = some a ↔ a < n ∧ m.read a ≠ 0 ∧ ∀ c, a < c → c < n → m.read c = 0 := by
  induction n with
  | zero => simp [Mem.highestNonZero]
  | succ n ih =>
    rw [Mem.highestNonZero]
    split
    next hn =>
      rw [Option.some_inj]
      refine ⟨?_, fun ⟨ha, _, hc⟩ => ?_⟩
      · rintro rfl
        exact ⟨Nat.lt_succ_self n, hn, fun c h1 h2 => by omega⟩
      · by_contra hne
        exact hn (hc n (by omega) (Nat.lt_succ_self n))
    next hn =>
      have h0 : m.read n = 0 := not_not.1 hn
      rw [ih]
      refine ⟨fun ⟨ha, hr, hc⟩ => ⟨by omega, hr, fun c h1 h2 => ?_⟩,
        fun ⟨ha, hr, hc⟩ => ⟨?_, hr, fun c h1 h2 => hc c h1 (by omega)⟩⟩
      · rcases Nat.lt_succ_iff_lt_or_eq.1 h2 with h | rfl
        · exact hc c h1 h
        · exact h0
      · rcases Nat.lt_succ_iff_lt_or_eq.1 ha with h | rfl
        · exact h
        · exact absurd h0 hr

theorem highestNonZero_eq_none_iff {w : Nat} (m : Mem w) (n : Nat) :
    m.highestNonZero n = none ↔ ∀ c, c < n → m.read c = 0 := by
  induction n with
  | zero => simp [Mem.highestNonZero]
  | succ n ih =>
    rw [Nat.forall_lt_succ_right, ← ih, Mem.highestNonZero]
    split
    next hn => exact iff_of_false (Option.some_ne_none n) fun h => hn h.2
    next hn => simp [not_not.1 hn]

/-- Settles O34: both answers of the search. -/
theorem highestNonZeroAddress_finds : Obligations.HighestNonZeroAddress :=
  fun s a => ⟨highestNonZero_eq_some_iff s.ram s.ramSize a, highestNonZero_eq_none_iff s.ram s.ramSize⟩

end Sys2Proof.Machine
end

section
/-! PROOFS. The next state of every instruction from a ready state (spec/43_instructions.md R116 to R130), and the states where no
instruction completes (R117, R65, R133). -/

namespace Sys2Proof.Machine

variable {s t : State} {i : Instr} {effect : State → State}

theorem State.Ready.running (h : s.Ready) : s.Running := by
  obtain ⟨hf, -, hz, hr, -⟩ := h
  exact ⟨hf, hz, hr⟩

theorem State.Ready.phase_eq (h : s.Ready) : s.phase = .low := by
  obtain ⟨-, ⟨hp, -⟩, -⟩ := h
  exact hp

theorem State.Ready.t_eq (h : s.Ready) : s.t = 0 := by
  obtain ⟨-, ⟨-, ht⟩, -⟩ := h
  exact ht

/-- Every arm of `exec` is a cycle of its own instruction. -/
theorem exec_eq_cycle (i : Instr) : ∃ effect : State → State, ∀ s, exec i s = cycle i effect s := by
  cases i <;> simp only [exec, execNop, execLda, execAdd, execSub, execSta, execLdi, execJmp, execJc, execJz, execOut,
    execUnassigned10, execUnassigned11, execUnassigned12, execUnassigned13, execUnassigned14, execHlt] <;>
    exact ⟨_, fun _ => rfl⟩

/-- A meaning with an operand step, from a ready state, when the operand names a cell (R120 to R123). -/
theorem cycle_atOperand_of_inRam {n : Nibble} {w : ControlWord} (h : s.Ready) (hn : s.InRam n.toNat) :
    cycle i (fun f => f.atOperand n w effect) s =
      .next (effect (((s.fetchInstr (encode s.hltOpcode i)).setMar (operandByte n)).setBus (operandByte n))) := by
  rw [cycle_of_ready h, State.atOperand_of_inRam (s := s.fetchInstr _) w hn]

/-- A meaning with an operand step, from a ready state, when the operand names none (R117). -/
theorem cycle_atOperand_of_outside {n : Nibble} {w : ControlWord} (h : s.Ready) (hn : ¬ s.InRam n.toNat) :
    cycle i (fun f => f.atOperand n w effect) s =
      .next ((((s.fetchInstr (encode s.hltOpcode i)).setMar (operandByte n)).setBus (operandByte n)).setTiming .high 3 w
        |>.raiseFault .outOfRange) := by
  rw [cycle_of_ready h, State.atOperand_of_outside (s := s.fetchInstr _) w hn]

/-- Settles O38: the fetch and the end of the cycle; the word in IR carries the row's opcode. -/
theorem idleInstructionsOnlyFetch : Obligations.IdleInstructionsOnlyFetch := by
  intro s x i op h hi
  obtain ⟨hcycle, hop, hx⟩ : exec i s = cycle i State.endCycle s ∧ i.opcode s.hltOpcode = op ∧ i.operand = x := by
    simp only [List.mem_cons, List.not_mem_nil, or_false, Prod.mk.injEq] at hi
    rcases hi with ⟨rfl, rfl⟩ | ⟨rfl, rfl⟩ | ⟨rfl, rfl⟩ | ⟨rfl, rfl⟩ | ⟨rfl, rfl⟩ | ⟨rfl, rfl⟩
    · exact ⟨rfl, rfl, rfl⟩
    all_goals
      refine ⟨rfl, ?_, rfl⟩
      cases s.hltOpcode <;> rfl
  rw [hcycle, cycle_of_ready h, encode, hop, hx, h.phase_eq, h.t_eq]
  rfl

/-- The operand step reads the RAM it started from: the fetch and the load of MAR write none (R120 to R123). -/
theorem operandInRam_loaded (s : State) (n : Nibble) (w v v' : Byte) :
    (((s.fetchInstr w).setMar v).setBus v').operandInRam n = (s.ramAt n.toNat).setWidth 8 := by
  simp only [State.operandInRam, State.ramAt, State.setBus_ram, State.setMar_ram, State.fetchInstr_ram, lowByte_eq_setWidth]

/-- Settles O39: the operand step, then A and the Bus take the cell's low byte. -/
theorem ldaLoadsAccumulator : Obligations.LdaLoadsAccumulator := by
  intro s n h hn
  rw [exec, execLda, cycle_atOperand_of_inRam h hn, operandInRam_loaded, h.phase_eq, h.t_eq]
  simp only [State.endCycle, State.setTiming, State.setBus, State.setA, State.setMar, State.fetchInstr]
  rfl

/-- The effect of ADD, with the ALU's sum and flags written out (R103, R121). -/
theorem State.accumulate_add (s : State) (v : Byte) : s.accumulate v false = { s with
    a := s.a + v, b := v, bus := s.a + v, aluRes := s.a + v,
    aluZ := decide ((s.a.toNat + v.toNat) % 256 = 0), aluC := decide (255 < s.a.toNat + v.toNat),
    flags := packFlags (decide ((s.a.toNat + v.toNat) % 256 = 0)) (decide (255 < s.a.toNat + v.toNat)) } := by
  simp only [State.accumulate, State.setBus, State.setAlu, State.setFlags, State.setA, State.setB, aluCompute_add_res,
    aluCompute_add_z, aluCompute_add_c]

/-- The effect of SUB, with the ALU's difference and flags written out (R103, R122). -/
theorem State.accumulate_sub (s : State) (v : Byte) : s.accumulate v true = { s with
    a := s.a - v, b := v, bus := s.a - v, aluRes := s.a - v,
    aluZ := decide (s.a = v), aluC := decide (v.toNat ≤ s.a.toNat),
    flags := packFlags (decide (s.a = v)) (decide (v.toNat ≤ s.a.toNat)) } := by
  simp only [State.accumulate, State.setBus, State.setAlu, State.setFlags, State.setA, State.setB, aluCompute_sub_res,
    aluCompute_sub_z, aluCompute_sub_c]

/-- Settles O40: the operand step, then the ALU's sum in A, FLAGS and the stored values. -/
theorem addAddsAndSetsFlags : Obligations.AddAddsAndSetsFlags := by
  rintro s n v h hn rfl
  rw [exec, execAdd, cycle_atOperand_of_inRam h hn, operandInRam_loaded, State.accumulate_add, h.phase_eq, h.t_eq]
  rfl

/-- Settles O41: the operand step, then the ALU's difference in A, FLAGS and the stored values. -/
theorem subSubtractsAndSetsFlags : Obligations.SubSubtractsAndSetsFlags := by
  rintro s n v h hn rfl
  rw [exec, execSub, cycle_atOperand_of_inRam h hn, operandInRam_loaded, State.accumulate_sub, h.phase_eq, h.t_eq]
  rfl

/-- At the start of a cycle, the next instruction is the low byte of the cell at PC, decoded (R16, R58). -/
theorem State.nextInstr_of_ramAt {v : Byte} (hc : s.AtCycleStart) (hin : s.InRam s.pc.toNat)
    (hv : s.ramAt s.pc.toNat = v.setWidth 16) : s.nextInstr = some (decode s.hltOpcode v) := by
  rw [State.nextInstr, if_pos ⟨hc, hin⟩, hv, decodeCell, ← lowByte_eq_setWidth, lowByte_setWidth]

/-- STA from a ready state whose operand names a cell (R116, R123). -/
theorem exec_sta {n : Nibble} (h : s.Ready) (hn : s.InRam n.toNat) : exec (.sta n) s = .next { s with
    ram := s.ram.write n.toNat (s.a.setWidth 16), bus := s.a, mar := n.setWidth 8, ir := (4#4 ++ n : Byte).setWidth 16,
    pc := s.pc + 1, cw := 0x2002 } := by
  rw [exec, execSta, cycle_atOperand_of_inRam h hn, State.writeCell_eq, if_pos, h.phase_eq, h.t_eq]
  · rfl
  · exact hn

/-- Settles O42: the written cell reads back A and the others keep; where PC names it, the decoder reads A. -/
theorem staStoresAccumulator : Obligations.StaStoresAccumulator := by
  refine fun s n h hn => ⟨_, exec_sta h hn, rfl, ?_, fun a ha => ?_, fun hpc => ?_⟩
  · simp [State.ramAt]
  · simp [State.ramAt, ha]
  · have haddr : (s.pc + 1).toNat = n.toNat := (congrArg BitVec.toNat hpc).trans (operandByte_toNat n)
    refine State.nextInstr_of_ramAt ⟨h.phase_eq, h.t_eq⟩ ?_ ?_
    · exact haddr ▸ hn
    · show (s.ram.write n.toNat (s.a.setWidth 16)).read (s.pc + 1).toNat = s.a.setWidth 16
      rw [Mem.read_write, if_pos haddr]

/-- Settles O43. -/
theorem ldiLoadsImmediate : Obligations.LdiLoadsImmediate := by
  intro s n h
  rw [exec, execLdi, cycle_of_ready h, h.phase_eq, h.t_eq]
  rfl

/-- Settles O45. -/
theorem outCopiesAccumulator : Obligations.OutCopiesAccumulator := by
  intro s x h
  rw [exec, execOut, cycle_of_ready h, h.phase_eq, h.t_eq]
  rfl

/-- Settles O44: the jump's condition reads the FLAGS of before the instruction, which the fetch keeps. -/
theorem jumpsLoadPc : Obligations.JumpsLoadPc := by
  intro s n i op c h hi
  obtain ⟨hnext, hop, hn⟩ : (exec i s = .next (State.endCycle
      (if c then (s.fetchInstr (encode s.hltOpcode i)).jumpTo n else s.fetchInstr (encode s.hltOpcode i)))) ∧
      i.opcode s.hltOpcode = op ∧ i.operand = n := by
    simp only [List.mem_cons, List.not_mem_nil, or_false, Prod.mk.injEq] at hi
    rcases hi with ⟨rfl, rfl, rfl⟩ | ⟨rfl, rfl, rfl⟩ | ⟨rfl, rfl, rfl⟩ <;> refine ⟨?_, rfl, rfl⟩
    · rw [exec, execJmp, cycle_of_ready h, if_pos rfl]
    · rw [exec, execJc, cycle_of_ready h]
      rfl
    · rw [exec, execJz, cycle_of_ready h]
      rfl
  rw [hnext, encode, hop, hn, h.phase_eq, h.t_eq]
  cases c <;> rfl

/-- Settles O46: HALT, then either the stop at T = 2 or the end of the cycle; the former is a final state. -/
theorem hltRequestsHalt : Obligations.HltRequestsHalt := by
  intro s x h
  obtain ⟨hf, -, -⟩ := h.running
  rw [exec, execHlt, cycle_of_ready h]
  refine ⟨_, rfl, ?_⟩
  cases hd : s.drive with
  | continuous =>
    simp only [State.fetchInstr_drive, hd, h.phase_eq]
    rw [← hd]
    exact ⟨rfl, fun _ => ⟨hf, rfl, hd⟩⟩
  | singleStep =>
    simp only [State.fetchInstr_drive, hd, h.phase_eq]
    refine ⟨?_, fun e => Drive.noConfusion e⟩
    rw [← hd]
    rfl

/-- Settles O48: the operand step's fault, whatever the instruction would do with the cell. -/
theorem operandOutsideRamFaults : Obligations.OperandOutsideRamFaults := by
  intro s n i op w h hn hi
  obtain ⟨⟨effect, hcycle⟩, hop, hx⟩ : (∃ effect, exec i s = cycle i (fun f => f.atOperand n w effect) s) ∧
      i.opcode s.hltOpcode = op ∧ i.operand = n := by
    simp only [List.mem_cons, List.not_mem_nil, or_false, Prod.mk.injEq] at hi
    rcases hi with ⟨rfl, rfl, rfl⟩ | ⟨rfl, rfl, rfl⟩ | ⟨rfl, rfl, rfl⟩ | ⟨rfl, rfl, rfl⟩ <;> exact ⟨⟨_, rfl⟩, rfl, rfl⟩
  rw [hcycle, cycle_atOperand_of_outside h (Nat.not_lt.2 hn), encode, hop, hx]
  rfl

/-- Settles O54: the two branches of `nextInstr`. -/
theorem stepRunsDecodedInstruction : Obligations.StepRunsDecodedInstruction := by
  refine ⟨fun s i hc hin hi => ?_, fun s h => ?_⟩
  · rw [step, State.nextInstr, if_pos ⟨hc, hin⟩, hi]
  · rw [step, State.nextInstr, if_neg h]

/-- A run of ticks from a state they have no effect on stays there. -/
theorem ticksToBoundary_of_stopped (n : Nat) (h : s.Stopped) : ticksToBoundary n s = s := by
  cases n with
  | zero => rfl
  | succ n =>
    have e := hostTick_of_stopped h
    rw [ticksToBoundary_stopped n (by rw [e]; exact h), e]

/-- A step from a frozen run stays there too, whether an instruction stands at PC or a cycle is in progress (R65). -/
theorem step_of_frozen (hf : s.fault = none) (hz : s.Frozen) : step s = .next s := by
  rw [step]
  split
  next i _ =>
    obtain ⟨effect, hcycle⟩ := exec_eq_cycle i
    rw [hcycle, cycle_of_frozen hf hz]
  next => rw [resume, hf, runCycle, ticksToBoundary_of_stopped 16 (.inr hz)]

theorem step_of_fault {k : FaultKind} (hf : s.fault = some k) : step s = .fault (.engineFaulted k) := by
  rw [step]
  split
  next i _ =>
    obtain ⟨effect, hcycle⟩ := exec_eq_cycle i
    rw [hcycle, cycle_of_fault hf]
  next => rw [resume, hf]

/-- Settles O49: every instruction is a cycle, which looks at FAULT and HALT first. -/
theorem frozenAndFaultedStates : Obligations.FrozenAndFaultedStates := by
  intro s i
  obtain ⟨effect, hcycle⟩ := exec_eq_cycle i
  rw [hcycle]
  exact ⟨fun hf hd hh => ⟨cycle_of_frozen hf ⟨hd, hh⟩, step_of_frozen hf ⟨hd, hh⟩⟩,
    fun k hf => ⟨cycle_of_fault hf, step_of_fault hf⟩⟩

/-- Settles O35: a final state is a frozen run. -/
theorem finalStateStays : Obligations.FinalStateStays :=
  fun _ => ⟨fun ⟨hf, hh, hd⟩ => ⟨fun n => ticks_of_stopped n (.inr ⟨hd, hh⟩), step_of_frozen hf ⟨hd, hh⟩⟩,
    fun hf hfinal => hf hfinal.1⟩

end Sys2Proof.Machine
end

section
/-! PROOFS. Runs of the host's ticks (spec/40_engine_cycle.md R64 to R77): where they stand after `k` ticks, and what they do not
depend on. -/

namespace Sys2Proof.Machine

variable {s : State}

/-- The last of `n + 1` ticks. -/
theorem ticks_succ (n : Nat) (s : State) : ticks (n + 1) s = (ticks n s).hostTick := by
  induction n generalizing s with
  | zero => rfl
  | succ n ih => exact ih s.hostTick

/-- Outside a frozen run the host's tick runs (R65). -/
theorem runs_of_not_frozen (hz : ¬ s.Frozen) : s.drive.tickArgument = true ∨ s.halt = .low := by
  rw [State.frozen_iff] at hz
  cases hd : s.drive.tickArgument <;> cases hh : s.halt <;> simp_all

/-- A state reached without a fault was left without one (R133). -/
theorem fault_of_hostTick (h : s.hostTick.fault = none) : s.fault = none := by
  by_contra hf
  rw [State.hostTick, tick_of_fault _ hf] at h
  exact hf h

/-- After `k` ticks, none frozen and none faulting, from PHASE LOW: the phase has flipped `k` times, and T has advanced on every
HIGH tick (R66, R76). -/
theorem ticks_phase_t (k : Nat) (hp : s.phase = .low) (hz : ∀ j, j < k → ¬ (ticks j s).Frozen)
    (hf : (ticks k s).fault = none) : (ticks k s).phase = (if k % 2 = 0 then .low else .high) ∧
      (ticks k s).t.toNat = (s.t.toNat + (k + 1) / 2) % 8 := by
  induction k with
  | zero => exact ⟨hp, (Nat.mod_eq_of_lt s.t.isLt).symm⟩
  | succ k ih =>
    rw [ticks_succ] at hf ⊢
    obtain ⟨hphase, ht⟩ := ih (fun j hj => hz j (by omega)) (fault_of_hostTick hf)
    have hruns := runs_of_not_frozen (hz k (Nat.lt_succ_self k))
    have hflip : (ticks k s).hostTick.phase = (ticks k s).phase.not :=
      tick_phase (fault_of_hostTick hf) (not_frozenTick_of_runs hruns)
    obtain ⟨hhigh, hlow, -⟩ := stepIndexAdvances _ (ticks k s) (fault_of_hostTick hf) hruns
    rcases Nat.mod_two_eq_zero_or_one k with hk | hk
    · rw [if_pos hk] at hphase
      rw [hflip, hphase, if_neg (by omega)]
      refine ⟨rfl, (hhigh hphase hf).1.trans ?_⟩
      omega
    · rw [if_neg (by omega)] at hphase
      rw [hflip, hphase, if_pos (by omega)]
      refine ⟨rfl, (congrArg BitVec.toNat (hlow hphase)).trans ?_⟩
      omega

/-- Settles O25: `ticks_phase_t` after an even number of ticks; the tick after them flips PHASE. -/
theorem twoTicksPerStep : Obligations.TwoTicksPerStep := by
  intro s m hp hz hf
  obtain ⟨hphase, ht⟩ := ticks_phase_t (2 * m) hp hz hf
  rw [if_pos (by omega)] at hphase
  refine ⟨hphase, ht.trans (by rw [show (2 * m + 1) / 2 = m by omega]), fun hlast => ?_⟩
  rw [ticks_succ, State.hostTick, tick_phase hf (not_frozenTick_of_runs (runs_of_not_frozen hlast)), hphase]
  rfl

end Sys2Proof.Machine
end

section
/-! PROOFS. Instruction cycles of the reference firmware, tick by tick (spec/43_instructions.md R116, R117): the fetch, the rows
of the firmware from T2 on, and the step as what the ticks give. -/

namespace Sys2Proof.Machine

variable {s f y m : State} {i : Instr} {n : Nibble}

/-- What the ControlUnit fetches at step `t` of a running cycle (R67). -/
theorem fetchedWord_of_running {p : Level} {t : BitVec 3} {w : ControlWord} (c : ControlWord) (hr : m.Running)
    (hw : m.wordAt t = w) : (m.setTiming p t c).fetchedWord = w := by
  obtain ⟨-, -, hrom⟩ := hr
  exact (State.fetchedWord_eq (s := m.setTiming p t c) hrom).trans hw

/-- The words from T2 on after the fetch of an instruction (R108). -/
theorem wordAt_fetchInstr (s : State) (i : Instr) :
    (s.fetchInstr (encode s.hltOpcode i)).wordAt 2 = (rowOf (zeroFlag s.flags) (carryFlag s.flags) i).1 ∧
    (s.fetchInstr (encode s.hltOpcode i)).wordAt 3 = (rowOf (zeroFlag s.flags) (carryFlag s.flags) i).2.1 ∧
    (s.fetchInstr (encode s.hltOpcode i)).wordAt 4 = (rowOf (zeroFlag s.flags) (carryFlag s.flags) i).2.2 := by
  rw [← executeWords_opcode s.hltOpcode, ← fetchInstr_opcode s i]
  exact ⟨rfl, rfl, rfl⟩

/-- A row without a word from T2 on: thirteen ticks after the fetch the cycle has ended (R110, R119, R130). -/
theorem cycle_of_idleRow (c : ControlWord) (hr : f.Running) (h2 : f.wordAt 2 = 0) (h3 : f.wordAt 3 = 0) (h4 : f.wordAt 4 = 0) :
    ticksToBoundary 13 (f.setTiming .high 2 c) = f.endCycle :=
  (ticksToBoundary_low 12 c hr (by decide) h2 rfl).trans
    (idle_steps 6 f 2 0 hr (State.idleFrom_two h2 h3 h4) (by decide) (by decide))

/-- A row with a word at T2 only, whose pass leads to `y` (R124 to R128). -/
theorem cycle_of_oneWord {w : ControlWord} (c : ControlWord) (hr : f.Running) (h2 : f.wordAt 2 = w) (hh : sig w .hlt = false)
    (hy : executingPass (f.setTiming .high 2 w) = y.setTiming .high 3 w) (hry : y.Running) (h3 : y.wordAt 3 = 0)
    (h4 : y.wordAt 4 = 0) : ticksToBoundary 13 (f.setTiming .high 2 c) = y.endCycle :=
  calc ticksToBoundary 13 (f.setTiming .high 2 c)
    _ = ticksToBoundary 12 (f.setTiming .low 2 w) := ticksToBoundary_low 12 c hr (by decide) h2 hh
    _ = ticksToBoundary 10 (y.setTiming .low 3 0) := microStep y 10 w hr h2 hh hy hry (by decide) h3 rfl
    _ = y.endCycle := idle_steps 5 y 3 0 hry (State.idleFrom_three h3 h4) (by decide) (by decide)

/-- T2 of a row with an operand step: MAR and the Bus take the operand (R120 to R123). -/
theorem cycle_operandAddress {w : ControlWord} (c : ControlWord) (hr : f.Running) (hn : irOperand f.ir = n)
    (h2 : f.wordAt 2 = 0x0012) (h3 : f.wordAt 3 = w) (hh : sig w .hlt = false) :
    ticksToBoundary 13 (f.setTiming .high 2 c) =
      ticksToBoundary 10 (((f.setMar (operandByte n)).setBus (operandByte n)).setTiming .low 3 w) :=
  (ticksToBoundary_low 12 c hr (by decide) h2 rfl).trans
    (microStep _ 10 0x0012 hr h2 rfl (pass_operandAddress hn) hr (by decide) h3 hh)

/-- A HIGH tick whose RAM access is outside RAM (R38, R133). -/
theorem hostTick_outOfRange {t : BitVec 3} {w : ControlWord} (c : ControlWord) (hr : m.Running) (hw : m.wordAt t = w)
    (hh : sig w .hlt = false) (hc : contends w = false) (ha : accessesRam w = true) (hin : ¬ m.InRam m.mar.toNat) :
    (m.setTiming .low t c).hostTick = (m.setTiming .high t w).raiseFault .outOfRange := by
  rw [hostTick_of_low (s := m.setTiming .low t c) hr rfl,
    latchPass_of_word (fetchedWord_of_running c hr hw) hh]
  exact executingPass_outOfRange (s := m.setTiming .high t w) hc ha hin

/-- A tick that faults ends the run. -/
theorem ticksToBoundary_of_fault {k : FaultKind} (j : Nat) (h : f.hostTick = m.raiseFault k) :
    ticksToBoundary (j + 1) f = m.raiseFault k :=
  (ticksToBoundary_stopped j (by rw [h]; exact .inl (Option.some_ne_none k))).trans h

/-- T3 of such a row when the operand names no cell: the HIGH tick faults (R117). -/
theorem cycle_operandFault {w : ControlWord} (hr : m.Running) (hm : m.mar = operandByte n) (hin : ¬ m.InRam n.toNat)
    (h3 : m.wordAt 3 = w) (hh : sig w .hlt = false) (hc : contends w = false) (ha : accessesRam w = true) :
    ticksToBoundary 10 (m.setTiming .low 3 w) = (m.setTiming .high 3 w).raiseFault .outOfRange :=
  ticksToBoundary_of_fault 9 (hostTick_outOfRange w hr h3 hh hc ha (by rwa [hm, operandByte_toNat]))

/-- T3 as the last word of a row: LDA and STA (R120, R123). -/
theorem cycle_of_lastWord {w : ControlWord} (hr : m.Running) (h3 : m.wordAt 3 = w) (hh : sig w .hlt = false)
    (hy : executingPass (m.setTiming .high 3 w) = y.setTiming .high 4 w) (hry : y.Running) (h4 : y.wordAt 4 = 0) :
    ticksToBoundary 10 (m.setTiming .low 3 w) = y.endCycle :=
  (microStep y 8 w hr h3 hh hy hry (by decide) h4 rfl).trans
    (idle_steps 4 y 4 0 hry (State.idleFrom_four h4) (by decide) (by decide))

/-- T3 and T4 of ADD and SUB: B takes the cell's low byte, then the ALU accumulates it (R121, R122). -/
theorem cycle_of_accumulate {w : ControlWord} {subtract : Bool} (hr : m.Running) (hm : m.mar = operandByte n)
    (hin : m.InRam n.toNat) (h3 : m.wordAt 3 = 0x0408) (h4 : m.wordAt 4 = w) (hh : sig w .hlt = false)
    (hy : ∀ x : State, executingPass (x.setTiming .high 4 w) = (x.accumulate x.b subtract).setTiming .high 5 w) :
    ticksToBoundary 10 (m.setTiming .low 3 0x0408) = (m.accumulate (m.operandInRam n) subtract).endCycle := by
  have hacc : (m.accumulate (m.operandInRam n) subtract).Running := by
    simpa [State.Running, State.Frozen, State.HasReferenceFirmware] using hr
  have hloaded : ((m.setB (m.operandInRam n)).setBus (m.operandInRam n)).wordAt (3 + 1) = w := h4
  have h5 : (m.accumulate (m.operandInRam n) subtract).wordAt (4 + 1) = 0 := State.idleFrom_five _ 5 (by decide)
  have hpass : executingPass (((m.setB (m.operandInRam n)).setBus (m.operandInRam n)).setTiming .high 4 w) =
      (m.accumulate (m.operandInRam n) subtract).setTiming .high (4 + 1) w := by
    rw [hy, ← m.accumulate_loaded]
    rfl
  calc ticksToBoundary 10 (m.setTiming .low 3 0x0408)
    _ = ticksToBoundary 8 (((m.setB (m.operandInRam n)).setBus (m.operandInRam n)).setTiming .low 4 w) :=
      microStep _ 8 0x0408 hr h3 rfl (pass_loadB hm hin) hr (by decide) hloaded hh
    _ = ticksToBoundary 6 ((m.accumulate (m.operandInRam n) subtract).setTiming .low 5 0) :=
      microStep _ 6 w hr hloaded hh hpass hacc (by decide) h5 rfl
    _ = _ := idle_steps 3 _ 5 0 hacc (State.idleFrom_five _) (by decide) (by decide)

/-- The tick that fetches the HLT word sets HALT: the LOW tick before T2 (R69, R129). -/
theorem hostTick_fetches_hlt (c : ControlWord) (hr : f.Running) (h2 : f.wordAt 2 = 0x0001) :
    (f.setTiming .high 2 c).hostTick = (f.setHalt .high).setTiming .low 2 0x0001 := by
  rw [hostTick_of_high (s := f.setTiming .high 2 c) hr rfl,
    latchPass_of_hlt (fetchedWord_of_running c hr h2) rfl]
  rfl

/-- The HIGH tick of T2 fetches it again, and its pass does nothing (R87, R129). -/
theorem hostTick_executes_hlt (c : ControlWord) (hr : f.Running) (h2 : f.wordAt 2 = 0x0001) :
    (f.setTiming .low 2 c).hostTick = (f.setHalt .high).setTiming .high 3 0x0001 := by
  rw [hostTick_of_low (s := f.setTiming .low 2 c) hr rfl,
    latchPass_of_hlt (fetchedWord_of_running c hr h2) rfl]
  exact executingPass_halt (s := (f.setHalt .high).setTiming .high 2 0x0001) rfl

/-- The row of HLT in continuous mode: the run stops where the word is fetched (R129). -/
theorem cycle_of_hltRow_continuous (c : ControlWord) (hr : f.Running) (h2 : f.wordAt 2 = 0x0001)
    (hd : f.drive = .continuous) :
    ticksToBoundary 13 (f.setTiming .high 2 c) = (f.setHalt .high).setTiming .low 2 0x0001 := by
  have htick := hostTick_fetches_hlt c hr h2
  rw [ticksToBoundary_stopped 12 (by rw [htick]; exact .inr ⟨hd, rfl⟩), htick]

/-- The row of HLT in single-step mode: the cycle goes on to its end (R129). -/
theorem cycle_of_hltRow_singleStep (c : ControlWord) (hr : f.Running) (h2 : f.wordAt 2 = 0x0001) (h3 : f.wordAt 3 = 0)
    (h4 : f.wordAt 4 = 0) (hd : f.drive = .singleStep) :
    ticksToBoundary 13 (f.setTiming .high 2 c) = (f.setHalt .high).endCycle := by
  have htick := hostTick_fetches_hlt c hr h2
  obtain ⟨hf, -, hrom⟩ := hr
  have hz : ¬ (f.setHalt .high).Frozen := fun ⟨hc, _⟩ => Drive.noConfusion (hd.symm.trans hc)
  have hg : (f.setHalt .high).Running := ⟨hf, hz, hrom⟩
  calc ticksToBoundary 13 (f.setTiming .high 2 c)
    _ = ticksToBoundary 12 ((f.setHalt .high).setTiming .low 2 0x0001) := by
      rw [← htick]
      exact ticksToBoundary_continue 12 (by rw [htick]; exact hf) (by rw [htick]; exact hz)
        (by rw [htick]; rintro ⟨-, e⟩; exact absurd e (by decide : (2 : BitVec 3) ≠ 0))
    _ = ticksToBoundary 11 ((f.setHalt .high).setTiming .high 3 0x0001) :=
      ticksToBoundary_high 11 hg (hostTick_executes_hlt _ hg h2)
    _ = ticksToBoundary 10 ((f.setHalt .high).setTiming .low 3 0) := ticksToBoundary_low 10 _ hg (by decide) h3 rfl
    _ = _ := idle_steps 5 _ 3 0 hg (State.idleFrom_three h3 h4) (by decide) (by decide)

/-- T2 to T4 of a row with an operand step: T3's fault, or what follows it in RAM (R117, R120 to R123). -/
theorem cycle_of_operandRow {w : ControlWord} {effect : State → State} (c : ControlWord) (hr : f.Running)
    (hn : irOperand f.ir = n) (h2 : f.wordAt 2 = 0x0012) (h3 : f.wordAt 3 = w) (hh : sig w .hlt = false)
    (hc : contends w = false) (ha : accessesRam w = true)
    (he : ∀ m : State, m = (f.setMar (operandByte n)).setBus (operandByte n) → m.InRam n.toNat →
      ticksToBoundary 10 (m.setTiming .low 3 w) = effect m) :
    ticksToBoundary 13 (f.setTiming .high 2 c) = f.atOperand n w effect := by
  rw [cycle_operandAddress c hr hn h2 h3 hh]
  by_cases hin : f.InRam n.toNat
  · rw [State.atOperand_of_inRam w hin]
    exact he _ rfl hin
  · rw [State.atOperand_of_outside w hin]
    exact cycle_operandFault hr rfl hin h3 hh hc ha

/-- A jump's row, taken or not (R125 to R127). -/
theorem cycle_of_jumpRow {taken : Bool} (c : ControlWord) (hr : f.Running) (hn : irOperand f.ir = n)
    (h2 : f.wordAt 2 = if taken then 0x4010 else 0) (h3 : f.wordAt 3 = 0) (h4 : f.wordAt 4 = 0) :
    ticksToBoundary 13 (f.setTiming .high 2 c) = (if taken then f.jumpTo n else f).endCycle := by
  cases taken with
  | false => exact cycle_of_idleRow c hr h2 h3 h4
  | true => exact cycle_of_oneWord c hr h2 rfl (pass_jump hn) hr h3 h4

/-- From a ready state the meaning of the instruction at PC is the sixteen ticks of its cycle (R77, R116). -/
theorem exec_eq_ticks (h : s.Ready) (hi : lowByte (s.ramAt s.pc.toNat) = encode s.hltOpcode i) :
    exec i s = .next (ticksToBoundary 16 s) := by
  have hr : (s.fetchInstr (encode s.hltOpcode i)).Running := h.running
  have hn : irOperand (s.fetchInstr (encode s.hltOpcode i)).ir = i.operand := fetchInstr_operand s i
  obtain ⟨h2, h3, h4⟩ := wordAt_fetchInstr s i
  rw [fetch_cycle 13 h hi]
  cases i with
  | nop | unassigned10 | unassigned11 | unassigned12 | unassigned13 | unassigned14 =>
    rw [cycle_of_idleRow _ hr h2 h3 h4]
    exact cycle_of_ready h
  | hlt =>
    rw [exec, execHlt, cycle_of_ready h]
    split
    next hd => rw [cycle_of_hltRow_continuous _ hr h2 hd]
    next hd => rw [cycle_of_hltRow_singleStep _ hr h2 h3 h4 hd]
  | ldi =>
    rw [cycle_of_oneWord (w := 0x0050) _ hr h2 rfl (pass_immediateA hn) hr h3 h4, exec, execLdi, cycle_of_ready h]
    rfl
  | out =>
    rw [cycle_of_oneWord (w := 0x0880) _ hr h2 rfl pass_outputA hr h3 h4, exec, execOut, cycle_of_ready h]
  | jmp =>
    rw [cycle_of_jumpRow (taken := true) _ hr hn h2 h3 h4, exec, execJmp, cycle_of_ready h]
    rfl
  | jc =>
    rw [cycle_of_jumpRow _ hr hn h2 h3 h4, exec, execJc, cycle_of_ready h]
    rfl
  | jz =>
    rw [cycle_of_jumpRow _ hr hn h2 h3 h4, exec, execJz, cycle_of_ready h]
    rfl
  | lda n =>
    rw [exec, execLda, cycle_of_ready h]
    refine congrArg Host.Outcome.next (cycle_of_operandRow (w := 0x0048) _ hr hn h2 h3 rfl rfl rfl ?_).symm
    rintro m rfl hin
    exact cycle_of_lastWord hr h3 rfl (pass_loadA rfl hin) hr h4
  | add n =>
    rw [exec, execAdd, cycle_of_ready h]
    refine congrArg Host.Outcome.next (cycle_of_operandRow (w := 0x0408) _ hr hn h2 h3 rfl rfl rfl ?_).symm
    rintro m rfl hin
    exact cycle_of_accumulate (w := 0x8140) hr rfl hin h3 h4 rfl fun _ => pass_addA rfl
  | sub n =>
    rw [exec, execSub, cycle_of_ready h]
    refine congrArg Host.Outcome.next (cycle_of_operandRow (w := 0x0408) _ hr hn h2 h3 rfl rfl rfl ?_).symm
    rintro m rfl hin
    exact cycle_of_accumulate (w := 0x8340) hr rfl hin h3 h4 rfl fun _ => pass_subA rfl
  | sta n =>
    rw [exec, execSta, cycle_of_ready h]
    refine congrArg Host.Outcome.next (cycle_of_operandRow (w := 0x0084) _ hr hn h2 h3 rfl rfl rfl ?_).symm
    rintro m rfl hin
    refine cycle_of_lastWord hr h3 rfl (pass_storeA rfl hin) ?_ ?_
    · simpa [State.Running, State.Frozen, State.HasReferenceFirmware] using hr
    · simpa [State.wordAt, rowOf] using h4

/-- With PC outside RAM the run of the cycle is T0 and the fault of T1 (R117). -/
theorem ticksToBoundary_fetchFault (hr : s.Running) (hc : s.AtCycleStart) (hin : ¬ s.InRam s.pc.toNat) :
    ticksToBoundary 16 s = s.fetchFault := by
  have hs : s.setTiming .low 0 s.cw = s := by
    obtain ⟨hp, ht⟩ := hc
    rw [← hp, ← ht]
    exact s.setTiming_self
  have hT0 := microStep ((s.setMar s.pc).setBus s.pc) 14 s.cw hr s.wordAt_zero rfl (executingPass_fetchAddress rfl) hr
    (by decide) (State.wordAt_one _) rfl
  rw [hs] at hT0
  exact hT0.trans (ticksToBoundary_of_fault 13
    (hostTick_outOfRange (m := (s.setMar s.pc).setBus s.pc) _ hr (State.wordAt_one _) rfl rfl rfl hin))

/-- Settles O55: at the start of a cycle the meaning runs, which is the ticks of its cycle under the reference firmware, stays
in a frozen run, and is the ticks themselves elsewhere; and inside a cycle a step goes on with the ticks. -/
theorem stepRefinesTicks : Obligations.StepRefinesTicks := by
  intro s hf
  obtain ⟨hstart, hinside⟩ := stepRunsDecodedInstruction
  by_cases hc : s.AtCycleStart ∧ s.InRam s.pc.toNat
  · rw [hstart s _ hc.1 hc.2 rfl]
    have hcell : lowByte (s.ramAt s.pc.toNat) = encode s.hltOpcode (decodeCell s.hltOpcode (s.ramAt s.pc.toNat)) := by
      rw [decodeCell, encode_decode, lowByte_eq_setWidth]
    obtain ⟨effect, hcycle⟩ := exec_eq_cycle (decodeCell s.hltOpcode (s.ramAt s.pc.toNat))
    by_cases hz : s.Frozen
    · rw [hcycle, cycle_of_frozen hf hz, ticksToBoundary_of_stopped 16 (.inr hz)]
    · by_cases hr : s.HasReferenceFirmware
      · exact exec_eq_ticks ⟨hf, hc.1, hz, hr, hc.2⟩ hcell
      · rw [hcycle, cycle_of_elsewhere hf hz fun h => hr h.2, State.placeInstr, if_pos hcell]
        rfl
  · rw [hinside s hc, resume, hf]
    rfl

/-- Settles O47: every instruction is a cycle, which faults in the fetch; and so do the ticks, which the step gives. -/
theorem fetchOutsideRamFaults : Obligations.FetchOutsideRamFaults := by
  intro s i hf hc hz hr hpc
  obtain ⟨effect, hcycle⟩ := exec_eq_cycle i
  have hin : ¬ s.InRam s.pc.toNat := Nat.not_lt.2 hpc
  rw [hcycle, cycle_of_fetchFault hf hc hz hr hin, stepRefinesTicks s hf, ticksToBoundary_fetchFault ⟨hf, hz, hr⟩ hc hin]
  exact ⟨rfl, rfl⟩

end Sys2Proof.Machine
end

section
/-! PROOFS. Consequences of the step as ticks: the frequency, the absence of faults under the reference firmware, and the host's
two ways around HLT (spec/10_state.md R28, spec/43_instructions.md R117, spec/70_reset_and_hazards.md R157,
spec/40_engine_cycle.md R84). -/

namespace Sys2Proof.Machine

variable {s t f : State} {i : Instr}

/-- The state with another frequency. -/
def State.withFreq (s : State) (hz : Rat) : State := { s with freq := hz }

/-- The executing pass neither reads nor writes the frequency. -/
theorem executingPass_withFreq (s : State) (hz : Rat) : executingPass (s.withFreq hz) = (executingPass s).withFreq hz := by
  have push := apply_ite fun x : State => x.withFreq hz
  rw [executingPass, executingPass, push, push]
  rfl

theorem tick_withFreq (b : Bool) (s : State) (hz : Rat) : tick b (s.withFreq hz) = (tick b s).withFreq hz := by
  by_cases hf : s.fault = none
  · by_cases hh : b = false ∧ s.halt = .high
    · obtain ⟨rfl, hh⟩ := hh
      rw [tick_of_frozen (s := s.withFreq hz) hh, tick_of_frozen hh]
    · cases hp : s.phase with
      | high =>
        rw [tick_low (s := s.withFreq hz) hf hh hp, tick_low hf hh hp]
        rfl
      | low =>
        rw [tick_high (s := s.withFreq hz) hf hh hp, tick_high hf hh hp, ← executingPass_withFreq]
        rfl
  · rw [tick_of_fault (s := s.withFreq hz) b hf, tick_of_fault b hf]

theorem ticksToBoundary_withFreq (n : Nat) (s : State) (hz : Rat) :
    ticksToBoundary n (s.withFreq hz) = (ticksToBoundary n s).withFreq hz := by
  induction n generalizing s with
  | zero => rfl
  | succ n ih =>
    have htick : (s.withFreq hz).hostTick = s.hostTick.withFreq hz := tick_withFreq _ s hz
    rw [ticksToBoundary_succ, ticksToBoundary_succ, htick, ih, apply_ite fun x : State => x.withFreq hz]
    rfl

/-- A step answers a next state only without a fault (log 9). -/
theorem fault_of_step (h : step s = .next t) : s.fault = none := by
  cases hf : s.fault with
  | none => rfl
  | some k =>
    rw [step_of_fault hf] at h
    cases h

/-- Settles O29: ticks commute with a change of the frequency, and a step is a run of ticks. -/
theorem frequencyNeverRead : Obligations.FrequencyNeverRead := by
  refine fun hz s => ⟨fun b => tick_withFreq b s hz, rfl, fun t h => ?_, fun b => tick_freq b s⟩
  have hf := fault_of_step h
  rw [stepRefinesTicks s hf] at h
  cases h
  exact (stepRefinesTicks (s.withFreq hz) hf).trans (congrArg _ (ticksToBoundary_withFreq 16 s hz))

@[simp] theorem tick_ramSize (b : Bool) (s : State) : (tick b s).ramSize = s.ramSize := by
  obtain ⟨h, -⟩ | ⟨-, -, ⟨-, h⟩ | ⟨-, ⟨-, h⟩ | ⟨-, -, -, h⟩ | ⟨-, -, h⟩⟩⟩ := tick_cases b s <;> rw [h] <;> rfl

@[simp] theorem tick_hltOpcode (b : Bool) (s : State) : (tick b s).hltOpcode = s.hltOpcode := by
  obtain ⟨h, -⟩ | ⟨-, -, ⟨-, h⟩ | ⟨-, ⟨-, h⟩ | ⟨-, -, -, h⟩ | ⟨-, -, h⟩⟩⟩ := tick_cases b s <;> rw [h] <;> rfl

@[simp] theorem tick_drive (b : Bool) (s : State) : (tick b s).drive = s.drive := by
  obtain ⟨h, -⟩ | ⟨-, -, ⟨-, h⟩ | ⟨-, ⟨-, h⟩ | ⟨-, -, -, h⟩ | ⟨-, -, h⟩⟩⟩ := tick_cases b s <;> rw [h] <;> rfl

/-- A tick keeps the firmware and the opcode it was written for. -/
theorem tick_hasReferenceFirmware (b : Bool) (h : s.HasReferenceFirmware) : (tick b s).HasReferenceFirmware := by
  obtain ⟨ha, hb⟩ := State.banks_eq_iff.1 (tick_banks b s)
  rwa [State.HasReferenceFirmware, ha, hb, tick_hltOpcode]

/-- No fault so far, the reference firmware, and a cell for every address of eight bits. -/
abbrev State.FaultFree (s : State) : Prop := s.fault = none ∧ s.HasReferenceFirmware ∧ 256 ≤ s.ramSize

/-- No reference word contends (R114), and MAR names a cell (R117). -/
theorem tick_faultFree (b : Bool) (h : s.FaultFree) : (tick b s).FaultFree := by
  obtain ⟨hf, hr, hsize⟩ := h
  refine ⟨?_, tick_hasReferenceFirmware b hr, by rwa [tick_ramSize]⟩
  have hmar := s.mar.isLt
  obtain ⟨e, -⟩ | ⟨-, -, ⟨-, e⟩ | ⟨-, ⟨hc, -⟩ | ⟨-, -, hin, -⟩ | ⟨-, -, e⟩⟩⟩ := tick_cases b s
  · rwa [e]
  · rwa [e]
  · rw [fetchedWord_reference s hr, contends_referenceWord] at hc
    cases hc
  · exact absurd (by omega) hin
  · rwa [e]

/-- PC and an operand name a cell. -/
theorem Frame.faultFree (hframe : Frame i s t) (h : s.FaultFree) : t.FaultFree := by
  obtain ⟨-, hr, hsize⟩ := h
  refine ⟨?_, ?_, by rwa [hframe.ramSize]⟩
  · have hpc := s.pc.isLt
    have hn := i.operand.isLt
    obtain hnone | ⟨-, hin | hin⟩ := hframe.fault
    · exact hnone
    · exact absurd (by omega) hin
    · exact absurd (by omega) hin
  · rwa [State.HasReferenceFirmware, hframe.romA, hframe.romB, hframe.hltOpcode]

theorem placeInstr_faultFree (w : Byte) (h : s.FaultFree) : (s.placeInstr w).FaultFree := by
  rw [State.placeInstr]
  split
  · exact h
  · simpa [State.FaultFree, State.HasReferenceFirmware] using h

/-- Without a fault every instruction answers a next state. -/
theorem exec_answers (i : Instr) (hf : s.fault = none) : ∃ t, exec i s = .next t := by
  obtain ⟨effect, hcycle⟩ := exec_eq_cycle i
  rw [hcycle, cycle, hf]
  simp only []
  split_ifs <;> exact ⟨_, rfl⟩

/-- Settles O59: ticks, frames and the placing of a word keep `State.FaultFree`. -/
theorem referenceFirmwareNeverFaults : Obligations.ReferenceFirmwareNeverFaults := by
  intro s hf hr hsize
  have hs : s.FaultFree := ⟨hf, hr, hsize⟩
  have htick (b : Bool) (x : State) (hx : x.FaultFree) : (tick b x).FaultFree := tick_faultFree b hx
  refine ⟨fun b => (htick b s hs).1, fun i => ?_, _, stepRefinesTicks s hf, (ticksToBoundary_induction htick 16 s hs).1⟩
  obtain ⟨t, ht⟩ := exec_answers i hf
  exact ⟨t, ht, (exec_induction htick (fun _ _ _ => Frame.faultFree) (fun _ w => placeInstr_faultFree w) ht hs).1⟩

/-- Two ticks of an idle step (R110). -/
theorem ticks_idleStep (n : Nat) {t : BitVec 3} {w : ControlWord} (c : ControlWord) (hr : f.Running) (hw : f.wordAt t = 0)
    (hw' : f.wordAt (t + 1) = w) (hh : sig w .hlt = false) :
    ticks (n + 2) (f.setTiming .low t c) = ticks n (f.setTiming .low (t + 1) w) := by
  rw [ticks, ticks, hostTick_micro (y := f) c hr hw rfl (executingPass_idle rfl), hostTick_latch _ hr hw' hh]

/-- The row that IR selects when it holds an HLT word (R109). -/
theorem wordAt_of_hlt (hop : irOpcode f.ir = f.hltOpcode.value) :
    f.wordAt 2 = 0x0001 ∧ f.wordAt 3 = 0 ∧ f.wordAt 4 = 0 := by
  have hrow : executeWords f.hltOpcode.value (zeroFlag f.flags) (carryFlag f.flags) f.hltOpcode.value = (0x0001, 0, 0) :=
    executeWords_opcode f.hltOpcode _ _ (.hlt 0)
  rw [State.wordAt_two, State.wordAt_three, State.wordAt_four, hop, hrow]
  exact ⟨rfl, rfl, rfl⟩

/-- Settles O36: the first resume runs the HIGH tick of T2, which requests the halt again; the second runs the LOW tick after
it and the five idle steps. -/
theorem hltResumesAtSecondRequest : Obligations.HltResumesAtSecondRequest := by
  intro s hf hrom hd hh hp ht hop
  have hr : (s.setHalt .low).Running := ⟨hf, fun ⟨_, e⟩ => Level.noConfusion e, hrom⟩
  obtain ⟨h2, h3, h4⟩ := wordAt_of_hlt (f := s.setHalt .low) hop
  have hidle := (s.setHalt .low).idleFrom_five
  refine ⟨fun n => ?_, ?_⟩
  · have hstart : setHaltInput .low s = (s.setHalt .low).setTiming .low 2 s.cw := by
      rw [← hp, ← ht]
      rfl
    have hstop : { s with phase := .high, t := 3, cw := 0x0001 } = (s.setHalt .high).setTiming .high 3 0x0001 := by
      rw [← hh]
      rfl
    rw [hstart, ticks, hostTick_executes_hlt _ hr h2, hstop]
    exact ticks_of_stopped n (.inr ⟨hd, rfl⟩)
  · calc ticks 11 ((s.setHalt .low).setTiming .high 3 0x0001)
      _ = ticks 10 ((s.setHalt .low).setTiming .low 3 0) := by rw [ticks, hostTick_latch _ hr h3 rfl]
      _ = ticks 8 ((s.setHalt .low).setTiming .low 4 0) := ticks_idleStep 8 _ hr h3 h4 rfl
      _ = ticks 6 ((s.setHalt .low).setTiming .low 5 0) := ticks_idleStep 6 _ hr h4 (hidle 5 (by decide)) rfl
      _ = ticks 4 ((s.setHalt .low).setTiming .low 6 0) :=
        ticks_idleStep 4 _ hr (hidle 5 (by decide)) (hidle 6 (by decide)) rfl
      _ = ticks 2 ((s.setHalt .low).setTiming .low 7 0) :=
        ticks_idleStep 2 _ hr (hidle 6 (by decide)) (hidle 7 (by decide)) rfl
      _ = ticks 0 ((s.setHalt .low).setTiming .low 0 0x2002) :=
        ticks_idleStep 0 _ hr (hidle 7 (by decide)) (State.wordAt_zero _) rfl

/-- HLT stands at T2 of its own row and nowhere else (R108, R109). -/
theorem sig_hlt_rowOf (zf cf : Bool) (i : Instr) : ((∀ x, i ≠ .hlt x) → sig (rowOf zf cf i).1 .hlt = false) ∧
    sig (rowOf zf cf i).2.1 .hlt = false ∧ sig (rowOf zf cf i).2.2 .hlt = false := by
  refine ⟨fun hi => ?_, ?_⟩
  · cases i with
    | hlt x => exact absurd rfl (hi x)
    | jc => cases cf <;> simp [rowOf, sig, Signal.position]
    | jz => cases zf <;> simp [rowOf, sig, Signal.position]
    | _ => simp [rowOf, sig, Signal.position]
  · cases i <;> simp [rowOf, sig, Signal.position]

/-- A state fetches HLT only at T2 of the HLT opcode (R108 to R110). -/
theorem sig_hlt_wordAt {t : BitVec 3} (h : t = 2 → irOpcode f.ir ≠ f.hltOpcode.value) : sig (f.wordAt t) .hlt = false := by
  obtain ⟨i, hop, hrow⟩ := executeWords_eq_rowOf f.hltOpcode (zeroFlag f.flags) (carryFlag f.flags) (irOpcode f.ir)
  obtain ⟨h2, h3, h4⟩ := sig_hlt_rowOf (zeroFlag f.flags) (carryFlag f.flags) i
  by_cases ht : t = 2
  · rw [ht, State.wordAt_two, hrow]
    refine h2 fun x hx => h ht ?_
    rw [← hop, hx]
    rfl
  · unfold State.wordAt referenceWord
    rw [hrow, if_neg ht]
    split_ifs
    exacts [rfl, rfl, h3, h4, rfl]

/-- What every tick keeps, any number of ticks keeps. -/
theorem ticks_induction {P : State → Prop} (htick : ∀ b x, P x → P (tick b x)) (n : Nat) (s : State) (hs : P s) :
    P (ticks n s) := by
  induction n generalizing s with
  | zero => exact hs
  | succ n ih => exact ih _ (htick _ s hs)

theorem hostTick_of_singleStep (hd : s.drive = .singleStep) : s.hostTick = tick true s := by
  rw [State.hostTick, hd]
  rfl

/-- As long as no tick fetches HLT, the calls of `tick(true)` are the host's ticks. -/
theorem singleStepsToHlt_add (n m : Nat) (hd : s.drive = .singleStep)
    (h : ∀ k, k < n → sig (ticks (k + 1) s).cw .hlt = false) :
    singleStepsToHlt (n + m) s = singleStepsToHlt m (ticks n s) := by
  induction n generalizing s with
  | zero => rw [Nat.zero_add, ticks]
  | succ n ih =>
    have hfirst : sig s.hostTick.cw .hlt = false := h 0 (by omega)
    rw [Nat.succ_add, singleStepsToHlt, ← hostTick_of_singleStep hd, if_neg (by simp [hfirst]), ticks]
    exact ih ((tick_drive _ s).trans hd) fun k hk => h (k + 1) (by omega)

/-- A run to the boundary is all its ticks when none before the last reaches a boundary with ticks still running. -/
theorem ticksToBoundary_eq_ticks (n : Nat)
    (h : ∀ k, 0 < k → k < n → (ticks k s).AtCycleStart → (ticks k s).Stopped) : ticksToBoundary n s = ticks n s := by
  induction n generalizing s with
  | zero => rfl
  | succ n ih =>
    rw [ticksToBoundary_succ, ticks]
    split
    next hend =>
      cases n with
      | zero => rfl
      | succ n =>
        have hstop : s.hostTick.Stopped := hend.elim id fun hc => h 1 (by omega) (by omega) hc
        exact (ticks_of_stopped _ hstop).symm
    next => exact ih fun k hk hkn => h (k + 1) (by omega) (by omega)

/-- A run in single-step mode is never frozen. -/
theorem not_frozen_ticks (hd : s.drive = .singleStep) (k : Nat) : ¬ (ticks k s).Frozen := fun ⟨hc, _⟩ =>
  Drive.noConfusion (hc.symm.trans
    (ticks_induction (P := fun x => x.drive = .singleStep) (fun b x hx => (tick_drive b x).trans hx) k s hd))

/-- In single-step mode a run stands at PHASE and T by the number of its ticks, as long as none faults (R66, R76). -/
theorem ticks_position (h : s.Ready) (hd : s.drive = .singleStep) {k : Nat} (hf : (ticks k s).fault = none) :
    (ticks k s).phase = (if k % 2 = 0 then .low else .high) ∧ (ticks k s).t.toNat = (k + 1) / 2 % 8 := by
  obtain ⟨hphase, ht⟩ := ticks_phase_t k h.phase_eq (fun j _ => not_frozen_ticks hd j) hf
  rw [h.t_eq] at ht
  exact ⟨hphase, ht.trans (congrArg (· % 8) (Nat.zero_add _))⟩

/-- A single-step cycle from a ready state is sixteen ticks: before them a boundary is reached only by a fault (R77). -/
theorem ticksToBoundary_of_ready (h : s.Ready) (hd : s.drive = .singleStep) : ticksToBoundary 16 s = ticks 16 s := by
  refine ticksToBoundary_eq_ticks 16 fun k hk hk16 ⟨hp, ht⟩ => .inl fun hf => ?_
  obtain ⟨hphase, htk⟩ := ticks_position h hd hf
  rw [hp] at hphase
  rw [ht] at htk
  have heven : k % 2 = 0 := by
    by_contra hodd
    rw [if_neg hodd] at hphase
    cases hphase
  have hzero : (0 : BitVec 3).toNat = 0 := rfl
  omega

/-- The first three ticks of a cycle are the fetch (R107, R116). -/
theorem ticks_fetch (h : s.Ready) (hi : lowByte (s.ramAt s.pc.toNat) = encode s.hltOpcode i) :
    ticks 3 s = (s.fetchInstr (encode s.hltOpcode i)).setTiming .high 2 0x1028 := by
  have hr := h.running
  have hT0 : s.hostTick = ((s.setMar s.pc).setBus s.pc).setTiming .high 1 0x2002 := by
    have htick := hostTick_micro (y := (s.setMar s.pc).setBus s.pc) s.cw hr s.wordAt_zero rfl (executingPass_fetchAddress rfl)
    rwa [h.eq_setTiming] at htick
  rw [ticks, hT0, ticks, hostTick_latch (y := (s.setMar s.pc).setBus s.pc) _ hr (State.wordAt_one _) rfl, ticks]
  exact fetch_T1 h hi

/-- In the first `n` ticks of a cycle only the two of T2, the fourth and the fifth, can fetch HLT, and only from an HLT word in
IR (R108). -/
theorem ticks_cw_no_hlt (h : s.Ready) (hd : s.drive = .singleStep) {n : Nat} (hn : n ≤ 16)
    (hT2 : ∀ k, k < n → k = 3 ∨ k = 4 → irOpcode (ticks k s).ir ≠ (ticks k s).hltOpcode.value) (k : Nat) (hk : k < n) :
    sig (ticks (k + 1) s).cw .hlt = false := by
  have hrom (j : Nat) : (ticks j s).HasReferenceFirmware :=
    ticks_induction (P := State.HasReferenceFirmware) (fun b _ hx => tick_hasReferenceFirmware b hx) j s h.running.2.2
  have hrun (j : Nat) (hf : (ticks j s).fault = none) (hj : j < n) : sig (ticks (j + 1) s).cw .hlt = false := by
    obtain ⟨-, ht⟩ := ticks_position h hd hf
    rw [ticks_succ, State.hostTick, tick_cw hf (runs_of_not_frozen (not_frozen_ticks hd j)), State.fetchedWord_eq (hrom j)]
    refine sig_hlt_wordAt fun e => hT2 j hj ?_
    rw [e] at ht
    have htwo : (2 : BitVec 3).toNat = 2 := rfl
    omega
  induction k with
  | zero => exact hrun 0 h.running.1 hk
  | succ k ih =>
    by_cases hf : (ticks (k + 1) s).fault = none
    · exact hrun (k + 1) hf hk
    · rw [ticks_succ, hostTick_of_stopped (.inl hf)]
      exact ih (by omega)

/-- The instruction step under HLT: three ticks of fetch, and the fourth fetches the HLT word (R84, R129). -/
theorem instructionStep_of_hlt (h : s.Ready) (hd : s.drive = .singleStep)
    (hi : lowByte (s.ramAt s.pc.toNat) = encode s.hltOpcode i) (hop : i.opcode s.hltOpcode = s.hltOpcode.value) :
    instructionStep s = ((s.fetchInstr (encode s.hltOpcode i)).setHalt .high).setTiming .low 2 0x0001 := by
  have hr : (s.fetchInstr (encode s.hltOpcode i)).Running := h.running
  have h2 := (wordAt_of_hlt ((fetchInstr_opcode s i).trans hop)).1
  have hfetch := ticks_fetch h hi
  have hfourth : tick true (ticks 3 s) =
      ((s.fetchInstr (encode s.hltOpcode i)).setHalt .high).setTiming .low 2 0x0001 := by
    rw [hfetch, ← hostTick_of_singleStep (s := (s.fetchInstr _).setTiming .high 2 0x1028) hd,
      hostTick_fetches_hlt _ hr h2]
  calc instructionStep s
    _ = singleStepsToHlt 13 (ticks 3 s) :=
      singleStepsToHlt_add 3 13 hd (ticks_cw_no_hlt h hd (by decide) fun k hk hk34 => by omega)
    _ = _ := by
      rw [singleStepsToHlt, hfourth]
      exact if_pos (show sig 0x0001 .hlt = true from rfl)

/-- The instruction step under another instruction is all sixteen ticks of the cycle (R84). -/
theorem instructionStep_of_not_hlt (h : s.Ready) (hd : s.drive = .singleStep)
    (hi : lowByte (s.ramAt s.pc.toNat) = encode s.hltOpcode i) (hop : i.opcode s.hltOpcode ≠ s.hltOpcode.value) :
    instructionStep s = ticks 16 s := by
  have hr : (s.fetchInstr (encode s.hltOpcode i)).Running := h.running
  have hfetch := ticks_fetch h hi
  have hne : irOpcode (s.fetchInstr (encode s.hltOpcode i)).ir ≠ s.hltOpcode.value := by rwa [fetchInstr_opcode]
  refine singleStepsToHlt_add 16 0 hd (ticks_cw_no_hlt h hd le_rfl fun k _ hk => ?_)
  rcases hk with rfl | rfl
  · rw [hfetch]
    exact hne
  · rw [ticks_succ, hfetch, hostTick_latch _ hr rfl (sig_hlt_wordAt fun _ => hne)]
    exact hne

/-- Settles O37: under HLT the step's fourth tick fetches HLT and ends it; under any other instruction it makes the sixteen ticks
of the cycle, which are the instruction's meaning. -/
theorem instructionStepRunsOneInstruction : Obligations.InstructionStepRunsOneInstruction := by
  intro s i h hd hi
  have hw : (s.ramAt s.pc.toNat).setWidth 8 = encode s.hltOpcode i := by rw [← hi, decodeCell, encode_decode]
  have hcell : lowByte (s.ramAt s.pc.toNat) = encode s.hltOpcode i := (lowByte_eq_setWidth _).trans hw
  split
  next hop =>
    rw [instructionStep_of_hlt h hd hcell hop, ← zeroExtend_lowByte, hw, h.phase_eq]
    rfl
  next hop =>
    rw [exec_eq_ticks h hcell, ticksToBoundary_of_ready h hd, instructionStep_of_not_hlt h hd hcell hop]

end Sys2Proof.Machine
end
